-- ==== Sys2Proof/Word.lean ====
section
/-! DEFINITION. The three widths the block works in (10_state.md R11, 30_encoding.md R41).
Every value of the block is unsigned (00_scope.md R8). -/

namespace Sys2Proof

/-- A byte of the checksum range, an LRC value, a mask, STATUS (20_memory.md R37). -/
abbrev Byte := BitVec 8

/-- CRC, RES and the operand of CRC_CHK (10_state.md R14, R17). -/
abbrev Half := BitVec 16

/-- A command word (30_encoding.md R41). -/
abbrev Word := BitVec 32

end Sys2Proof
end

