-- ==== Sys2Proof/Machine/Checksum.lean ====
section
/-! DEFINITION. The two checksum functions as pure functions of a byte sequence
(40_crc16.md R55 to R57, 41_lrc8.md R68 to R70). The spec calls them normative (00_scope.md R3). -/

namespace Sys2Proof.Machine

/-- `POLY` (40_crc16.md R55), hard-wired (10_state.md R15). -/
def crcPoly : Half := 0xA001

/-- `INIT` (40_crc16.md R55), hard-wired (10_state.md R15). -/
def crcInitValue : Half := 0xFFFF

/-- One iteration of the inner loop of 40_crc16.md R56. -/
def crcShift (c : Half) : Half :=
  if c.getLsbD 0 then (c >>> 1) ^^^ crcPoly else c >>> 1

/-- `n` iterations of the inner loop; 40_crc16.md R63 calls 16 of them L16. -/
def crcShifts : Nat → Half → Half
  | 0, c => c
  | n + 1, c => crcShifts n (crcShift c)

/-- `crc_step` of 40_crc16.md R56: the byte enters the low 8 bits and is consumed least-significant bit first.
UNVERIFIED (log entry 5): the spec gives this procedure from general knowledge. -/
def crcStep (c : Half) (b : Byte) : Half := crcShifts 8 (c ^^^ b.setWidth 16)

/-- The register after the bytes `s` are fed to a register that holds `c`. -/
def crcFrom (c : Half) (s : List Byte) : Half := s.foldl crcStep c

/-- `crc16` of 40_crc16.md R57: no final XOR, no reversal of the result. -/
def crc16 (s : List Byte) : Half := crcFrom crcInitValue s

/-- The sum after the bytes `s` are added to `a`, modulo 256 at each addition (41_lrc8.md R68). -/
def lrcSumFrom (a : Byte) (s : List Byte) : Byte := s.foldl (· + ·) a

/-- `lrc_sum` of 41_lrc8.md R68. -/
def lrcSum (s : List Byte) : Byte := lrcSumFrom 0x00 s

/-- `lrc_neg` of 41_lrc8.md R69: `(0 - a) mod 2^8`. -/
def lrcNeg (a : Byte) : Byte := 0 - a

/-- `lrc8` of 41_lrc8.md R70. -/
def lrc8 (s : List Byte) : Byte := lrcNeg (lrcSum s)

end Sys2Proof.Machine
end

