-- ==== Sys2Proof/Machine/Flags.lean ====
section
/-! DEFINITION. The STATUS bits and the conditions they record (10_state.md R18, R19, 60_exceptions.md R89). -/

namespace Sys2Proof.Machine

/-- The three conditions of the block; "No other condition exists" (60_exceptions.md R89). -/
inductive Condition where
  /-- ChecksumMismatch of an RTU frame (60_exceptions.md R90) -/
  | crcm
  /-- ChecksumMismatch of an ASCII frame (60_exceptions.md R91) -/
  | lrcm
  /-- an illegal command word (60_exceptions.md R92) -/
  | ill
  deriving DecidableEq, Repr

/-- The condition's code, which is its STATUS bit (60_exceptions.md R89). -/
def Condition.bit : Condition → Nat
  | .crcm => 0
  | .lrcm => 1
  | .ill => 2

/-- The bits of STATUS that exist; bits 7 to 3 are hard-wired to 0 (10_state.md R19). -/
def statusMask : Byte := 0x07

/-- A STATUS value with the condition's bit set and the others unchanged (00_scope.md R10, `set_status`). -/
def statusRaise (v : Byte) (c : Condition) : Byte := v ||| (1#8 <<< c.bit)

/-- `STATUS AND (NOT mask) AND 0x07` (42_control.md R83). -/
def statusClear (v mask : Byte) : Byte := v &&& ~~~mask &&& statusMask

end Sys2Proof.Machine
end

