-- ==== Sys2Proof/Syntax.lean ====
section
/-! DEFINITION. The commands of the block, one constructor per row of spec/opcode_table.json (30_encoding.md R46). -/

namespace Sys2Proof

/-- A command with its operand fields as 30_encoding.md R45 takes them: unsigned and unchanged. -/
inductive Instr where
  /-- 42_control.md R81 -/
  | nop
  /-- 40_crc16.md R58 -/
  | crcInit
  /-- 40_crc16.md R59 -/
  | crcFeed (d8 : Byte)
  /-- 40_crc16.md R60 -/
  | crcRd
  /-- 40_crc16.md R61 -/
  | crcChk (d16 : Half)
  /-- 41_lrc8.md R71 -/
  | lrcInit
  /-- 41_lrc8.md R72 -/
  | lrcFeed (d8 : Byte)
  /-- 41_lrc8.md R73 -/
  | lrcRd
  /-- 41_lrc8.md R74 -/
  | lrcChk (d8 : Byte)
  /-- 42_control.md R82 -/
  | statRd
  /-- 42_control.md R83 -/
  | statClr (d8 : Byte)
  deriving DecidableEq, Repr

end Sys2Proof
end

