-- ==== Sys2Proof/Machine/Operands.lean ====
section
/-! DEFINITION. How operands and results are assembled (30_encoding.md R45, 20_memory.md R33, R38). -/

namespace Sys2Proof.Machine

/-- `zext_16` (00_scope.md R9): a byte is never sign-extended (30_encoding.md R45). -/
def zext16 (b : Byte) : Half := b.setWidth 16

/-- `c[7:0]`, the first trailer byte on the wire (20_memory.md R33). -/
def lowByte (c : Half) : Byte := c.extractLsb' 0 8

/-- `c[15:8]`, the second trailer byte on the wire (20_memory.md R33). -/
def highByte (c : Half) : Byte := c.extractLsb' 8 8

/-- `t0 OR (t1 << 8)`, the operand of CRC_CHK for the received trailer bytes t0 then t1 (30_encoding.md R45). -/
def trailerOperand (t0 t1 : Byte) : Half := zext16 t0 ||| (zext16 t1 <<< 8)

/-- A range presented to the CRC unit, byte by byte as FEED operands (20_memory.md R29). -/
def feedCrc (range : List Byte) : List Instr := range.map .crcFeed

/-- A range presented to the LRC unit, byte by byte as FEED operands (20_memory.md R29). -/
def feedLrc (range : List Byte) : List Instr := range.map .lrcFeed

end Sys2Proof.Machine
end

