-- ==== Sys2Proof/WellFormed.lean ====
section
/-! DEFINITION. Mnemonics, formats, and which source commands are well formed (30_encoding.md R42 to R44, R46, R52).
The operands of `Instr` have exactly the widths of the word's fields, so every `Instr` is well formed by its type.
A command as a programmer writes it has a number for an operand, and that number is what the checks are about. -/

namespace Sys2Proof

/-- The three formats of a command word (30_encoding.md R42, R43, R44). -/
inductive Format where
  /-- no operand -/
  | n
  /-- a byte operand -/
  | b
  /-- a halfword operand -/
  | h
  deriving DecidableEq, Repr

/-- The mnemonics of the opcode map (30_encoding.md R46). -/
inductive Mnemonic where
  | nop | crcInit | crcFeed | crcRd | crcChk | lrcInit | lrcFeed | lrcRd | lrcChk | statRd | statClr
  deriving DecidableEq, Repr

/-- The rows of the opcode map in its order (30_encoding.md R46). -/
def Mnemonic.all : List Mnemonic :=
  [.nop, .crcInit, .crcFeed, .crcRd, .crcChk, .lrcInit, .lrcFeed, .lrcRd, .lrcChk, .statRd, .statClr]

/-- The mnemonic's spelling (30_encoding.md R46). -/
def Mnemonic.text : Mnemonic → String
  | .nop => "NOP"
  | .crcInit => "CRC_INIT"
  | .crcFeed => "CRC_FEED"
  | .crcRd => "CRC_RD"
  | .crcChk => "CRC_CHK"
  | .lrcInit => "LRC_INIT"
  | .lrcFeed => "LRC_FEED"
  | .lrcRd => "LRC_RD"
  | .lrcChk => "LRC_CHK"
  | .statRd => "STAT_RD"
  | .statClr => "STAT_CLR"

/-- The format column of the opcode map (30_encoding.md R46). -/
def Mnemonic.format : Mnemonic → Format
  | .nop | .crcInit | .crcRd | .lrcInit | .lrcRd | .statRd => .n
  | .crcFeed | .lrcFeed | .lrcChk | .statClr => .b
  | .crcChk => .h

/-- The row of the opcode map a command belongs to. -/
def Instr.mnemonic : Instr → Mnemonic
  | .nop => .nop
  | .crcInit => .crcInit
  | .crcFeed _ => .crcFeed
  | .crcRd => .crcRd
  | .crcChk _ => .crcChk
  | .lrcInit => .lrcInit
  | .lrcFeed _ => .lrcFeed
  | .lrcRd => .lrcRd
  | .lrcChk _ => .lrcChk
  | .statRd => .statRd
  | .statClr _ => .statClr

/-- The operand of a command as a number, none for format N. -/
def Instr.operand : Instr → Option Nat
  | .nop | .crcInit | .crcRd | .lrcInit | .lrcRd | .statRd => none
  | .crcFeed d8 | .lrcFeed d8 | .lrcChk d8 | .statClr d8 => some d8.toNat
  | .crcChk d16 => some d16.toNat

/-- A command as 30_encoding.md R52 writes it: a mnemonic, then at most one operand. -/
structure Command where
  mnemonic : Mnemonic
  operand : Option Nat
  deriving DecidableEq, Repr

/-- The largest operand a format admits, none where it admits no operand (30_encoding.md R52).
That format N admits none is DEDUCED from R52's syntax column (log entry 9). -/
def Format.operandMax : Format → Option Nat
  | .n => none
  | .b => some 0xFF
  | .h => some 0xFFFF

/-- "A format-B operand must be at most 0xFF, and a format-H operand at most 0xFFFF" (30_encoding.md R52). -/
def Command.wellFormed (c : Command) : Bool :=
  match c.operand, c.mnemonic.format.operandMax with
  | none, _ => true
  | some _, none => false
  | some v, some top => decide (v ≤ top)

/-- The source form of a command. -/
def Instr.command (i : Instr) : Command := ⟨i.mnemonic, i.operand⟩

end Sys2Proof
end

