-- ==== Sys2Proof/Decode.lean ====
section
/-! DEFINITION. Command words: their fields, the decoder and the encoder (30_encoding.md R41 to R50).
The decoder looks at the word alone, never at a state (R50). -/

namespace Sys2Proof

/-! ## Fields (R41) -/

/-- `op = w[7:0]` -/
def opField (w : Word) : Byte := w.extractLsb' 0 8

/-- `rsv = w[15:8]` -/
def rsvField (w : Word) : Byte := w.extractLsb' 8 8

/-- `d8 = w[23:16]` -/
def d8Field (w : Word) : Byte := w.extractLsb' 16 8

/-- `hi8 = w[31:24]` -/
def hi8Field (w : Word) : Byte := w.extractLsb' 24 8

/-- `d16 = w[31:16]` -/
def d16Field (w : Word) : Half := w.extractLsb' 16 16

/-- `w[31:8]`, which format N requires to be 0 (R42). -/
def upperField (w : Word) : BitVec 24 := w.extractLsb' 8 24

/-! ## Decoding (R47, R48) -/

/-- Why a word is illegal (R47): the two ways R92 lists. Both have the one effect of R51. -/
inductive Illegal where
  /-- the `op` is not in the table of R46 -/
  | reservedOpcode
  /-- the `op` is in the table and a bit its format requires to be 0 is not -/
  | reservedBits
  deriving DecidableEq, Repr

/-- Format N: w[31:8] must be 0 (R42). -/
def decodeN (w : Word) (i : Instr) : Except Illegal Instr :=
  if upperField w = 0 then .ok i else .error .reservedBits

/-- Format B: w[31:24] and w[15:8] must be 0 (R43). -/
def decodeB (w : Word) (f : Byte → Instr) : Except Illegal Instr :=
  if hi8Field w = 0 ∧ rsvField w = 0 then .ok (f (d8Field w)) else .error .reservedBits

/-- Format H: w[15:8] must be 0 (R44). -/
def decodeH (w : Word) (f : Half → Instr) : Except Illegal Instr :=
  if rsvField w = 0 then .ok (f (d16Field w)) else .error .reservedBits

/-- The decoder of R48: total, from any word to a command or a named rejection. -/
def decode (w : Word) : Except Illegal Instr :=
  match (opField w).toNat with
  | 0x00 => decodeN w .nop
  | 0x01 => decodeN w .crcInit
  | 0x02 => decodeB w .crcFeed
  | 0x03 => decodeN w .crcRd
  | 0x04 => decodeH w .crcChk
  | 0x11 => decodeN w .lrcInit
  | 0x12 => decodeB w .lrcFeed
  | 0x13 => decodeN w .lrcRd
  | 0x14 => decodeB w .lrcChk
  | 0x20 => decodeN w .statRd
  | 0x21 => decodeB w .statClr
  | _ => .error .reservedOpcode

/-! ## The opcode table (R46, R48) -/

/-- The op column of the opcode map (R46). -/
def Mnemonic.opcode : Mnemonic → Byte
  | .nop => 0x00
  | .crcInit => 0x01
  | .crcFeed => 0x02
  | .crcRd => 0x03
  | .crcChk => 0x04
  | .lrcInit => 0x11
  | .lrcFeed => 0x12
  | .lrcRd => 0x13
  | .lrcChk => 0x14
  | .statRd => 0x20
  | .statClr => 0x21

/-- The mask of a format (R42, R43, R44). -/
def Format.mask : Format → Word
  | .n => 0xFFFFFFFF
  | .b => 0xFF00FFFF
  | .h => 0x0000FFFF

/-- `match` of a row: its op with every other bit 0 (spec/opcode_table.json). -/
def Mnemonic.pattern (m : Mnemonic) : Word := m.opcode.setWidth 32

/-- A word belongs to a row when `(w AND mask) = match` (R48). -/
def Mnemonic.matchesWord (m : Mnemonic) (w : Word) : Bool := w &&& m.format.mask == m.pattern

/-- A word is legal when some row of the table matches it (R47, R48). -/
def legal (w : Word) : Bool := Mnemonic.all.any (·.matchesWord w)

/-! ## Encoding (R42 to R44, R46) -/

/-- Format N: `0x000000op` (R42). -/
def wordN (op : Byte) : Word := op.setWidth 32

/-- Format B: `0x00dd00op` (R43): d8 in w[23:16], op in w[7:0], every other bit 0. -/
def wordB (op d8 : Byte) : Word := (d8.setWidth 32 <<< 16) ||| op.setWidth 32

/-- Format H: `0xhhhh00op` (R44): d16 in w[31:16], op in w[7:0], every other bit 0. -/
def wordH (op : Byte) (d16 : Half) : Word := (d16.setWidth 32 <<< 16) ||| op.setWidth 32

/-- The word of a command (R46). -/
def encode : Instr → Word
  | .nop => wordN 0x00
  | .crcInit => wordN 0x01
  | .crcFeed d8 => wordB 0x02 d8
  | .crcRd => wordN 0x03
  | .crcChk d16 => wordH 0x04 d16
  | .lrcInit => wordN 0x11
  | .lrcFeed d8 => wordB 0x12 d8
  | .lrcRd => wordN 0x13
  | .lrcChk d8 => wordB 0x14 d8
  | .statRd => wordN 0x20
  | .statClr d8 => wordB 0x21 d8

/-! ## Words by number -/

/-- The word at the command port whose low `nbits` bits are those of `w`, every bit above them 0.
The port carries the word whole, so no byte order enters (10_state.md R13; log entry 11). -/
def portWord (nbits w : Nat) : Word := BitVec.ofNat 32 (w % 2 ^ nbits)

/-- The command the decoder reads from the table's word `w` of `nbits` bits.
No command is longer than 32 bits (R41). -/
def decodeTableWord (nbits w : Nat) : Option Instr :=
  if nbits ≤ 32 then (decode (portWord nbits w)).toOption else none

end Sys2Proof
end

