-- ==== Sys2Proof/Machine/State.lean ====
section
/-! DEFINITION. The state of one instance of the block (10_state.md R11), and the reasons a step can stop. -/

namespace Sys2Proof.Machine

/-- Why a run stops. No command of the block faults (93_implementation_defined.md part 3). -/
inductive Fault where
  /-- Raised by `step` when the index has reached the end of the program: "A run of P ends when k = n"
  (42_control.md R88). Safe: the model stops where the host presents no further word (log entry 2). -/
  | endOfRun
  deriving DecidableEq, Repr

/-- Why an instruction has no meaning. Every command of the table has one. -/
inductive Refusal where
  /-- Raised by an arm of `exec` that has no meaning yet; no arm raises it. Safe. -/
  | notModelled (mnemonic : String)
  deriving DecidableEq, Repr

/-- The four registers of 10_state.md R11, and the host's program with its index, which 42_control.md R87 lets
a model keep. The block has no other state (R11, R20, R21, R24) and no memory (20_memory.md R29). -/
structure State where
  /-- the running CRC-16 register (R14) -/
  crc : Half
  /-- the running LRC-8 sum, modulo 256 (R16) -/
  lacc : Byte
  /-- the result of the last command that produces one (R17) -/
  res : Half
  /-- the sticky condition bits (R18); read and written through `State.readStatus` and `State.writeStatus` only -/
  status : Byte
  /-- the host's program, a finite list of command words (R87) -/
  prog : List Word
  /-- the index of the next word of the program (R87) -/
  index : Nat
  deriving DecidableEq, Repr

/-- Reset puts every register at the value of 10_state.md R25 (70_reset_and_hazards.md R104).
The host has presented no word yet (log entry 3). -/
def State.reset : State where
  crc := 0xFFFF
  lacc := 0x00
  res := 0x0000
  status := 0x00
  prog := []
  index := 0

end Sys2Proof.Machine
end

