-- ==== Sys2Proof/Machine/Ops.lean ====
section
/-! DEFINITION. The named operations over the registers, the conditions, the command port and reset.
There is no memory, so there is no memory operation (20_memory.md R29). -/

namespace Sys2Proof.Machine

/-! ## Registers -/

/-- `CRC <- v` (10_state.md R14). -/
def State.writeCrc (v : Half) (s : State) : State :=
  { s with crc := v }

/-- `LACC <- v` (10_state.md R16). -/
def State.writeLacc (v : Byte) (s : State) : State :=
  { s with lacc := v }

/-- `RES <- v` (10_state.md R17). -/
def State.writeRes (v : Half) (s : State) : State :=
  { s with res := v }

/-- STATUS as every reader sees it: bits 7 to 3 "read as 0 at all times" (10_state.md R19). -/
def State.readStatus (s : State) : Byte := s.status &&& statusMask

/-- `STATUS <- v`: no command changes bits 7 to 3 (10_state.md R19). -/
def State.writeStatus (v : Byte) (s : State) : State :=
  { s with status := v &&& statusMask }

/-! ## Conditions -/

/-- A condition is recorded: its STATUS bit becomes 1 and the run goes on (60_exceptions.md R89, R94, R97).
This is all the exception entry the block has. -/
def State.raise (c : Condition) (s : State) : State :=
  s.writeStatus (statusRaise s.readStatus c)

/-- The conditions a mask selects are acknowledged (42_control.md R83, 60_exceptions.md R98).
This is all the return from an exception the block has. -/
def State.acknowledge (mask : Byte) (s : State) : State :=
  s.writeStatus (statusClear s.readStatus mask)

/-- The verdict of a check: RES <- 0x0000 on a match, else RES <- 0x0001 and the condition
(40_crc16.md R61, 41_lrc8.md R74). -/
def State.check (agree : Bool) (c : Condition) (s : State) : State :=
  if agree then s.writeRes 0x0000 else (s.writeRes 0x0001).raise c

/-- An illegal word sets STATUS.ILL and does nothing else (30_encoding.md R51). -/
def execIllegal (s : State) : Host.Outcome State Fault Refusal := .next (s.raise .ill)

/-! ## The ports -/

/-- What the response port carries (10_state.md R13). -/
structure Response where
  res : Half
  status : Byte
  deriving DecidableEq, Repr

/-- "Both ports always show the current register values" (10_state.md R13); reading has no side effect
(20_memory.md R38). -/
def State.response (s : State) : Response := ⟨s.res, s.readStatus⟩

/-- The word the host presents next, none when the program is at its end (42_control.md R87, R88). -/
def State.fetch (s : State) : Option Word := s.prog[s.index]?

/-- Each step advances the index by exactly 1 (42_control.md R87). -/
def State.advance (s : State) : State :=
  { s with index := s.index + 1 }

/-- The host takes up the program `p`, at its first word (42_control.md R87). -/
def State.load (p : List Word) (s : State) : State :=
  { s with prog := p, index := 0 }

/-- The program `p` with the word at place `k` replaced by `w`, or put there: where `p` is too short, words
of NOP fill the places before `k`. -/
def placeWord (p : List Word) (k : Nat) (w : Word) : List Word :=
  p.take k ++ List.replicate (k - p.length) 0x00000000#32 ++ w :: p.drop (k + 1)

/-! ## Reset -/

/-- Platform reset between two commands: every register at its reset value at once (70_reset_and_hazards.md R104).
The host's program and index are not the block's and stay (log entry 8). -/
def State.platformReset (s : State) : State :=
  { State.reset with prog := s.prog, index := s.index }

end Sys2Proof.Machine
end

