-- ==== Sys2Proof/Machine/Control.lean ====
section
/-! DEFINITION. The control and status commands (42_control.md R81 to R83). -/

namespace Sys2Proof.Machine

/-- NOP (42_control.md R81). -/
def execNop (s : State) : Host.Outcome State Fault Refusal := .next s

/-- STAT_RD (42_control.md R82): reading does not clear. -/
def execStatRd (s : State) : Host.Outcome State Fault Refusal :=
  .next (s.writeRes (zext16 s.readStatus))

/-- STAT_CLR d8 (42_control.md R83). -/
def execStatClr (d8 : Byte) (s : State) : Host.Outcome State Fault Refusal :=
  .next (s.acknowledge d8)

end Sys2Proof.Machine
end

