-- ==== Sys2Proof/Machine/Crc.lean ====
section
/-! DEFINITION. The commands of the CRC-16 generator (40_crc16.md R58 to R61). -/

namespace Sys2Proof.Machine

/-- CRC_INIT (40_crc16.md R58). -/
def execCrcInit (s : State) : Host.Outcome State Fault Refusal :=
  .next (s.writeCrc crcInitValue)

/-- CRC_FEED d8 (40_crc16.md R59). -/
def execCrcFeed (d8 : Byte) (s : State) : Host.Outcome State Fault Refusal :=
  .next (s.writeCrc (crcStep s.crc d8))

/-- CRC_RD (40_crc16.md R60). -/
def execCrcRd (s : State) : Host.Outcome State Fault Refusal :=
  .next (s.writeRes s.crc)

/-- CRC_CHK d16 (40_crc16.md R61, 60_exceptions.md R90). -/
def execCrcChk (d16 : Half) (s : State) : Host.Outcome State Fault Refusal :=
  .next (s.check (d16 == s.crc) .crcm)

end Sys2Proof.Machine
end

