-- ==== Sys2Proof/Machine/Lrc.lean ====
section
/-! DEFINITION. The commands of the LRC-8 checksum unit (41_lrc8.md R71 to R74). -/

namespace Sys2Proof.Machine

/-- LRC_INIT (41_lrc8.md R71). -/
def execLrcInit (s : State) : Host.Outcome State Fault Refusal :=
  .next (s.writeLacc 0x00)

/-- LRC_FEED d8 (41_lrc8.md R72): the carry out of bit 7 is discarded. -/
def execLrcFeed (d8 : Byte) (s : State) : Host.Outcome State Fault Refusal :=
  .next (s.writeLacc (s.lacc + d8))

/-- LRC_RD (41_lrc8.md R73). -/
def execLrcRd (s : State) : Host.Outcome State Fault Refusal :=
  .next (s.writeRes (zext16 (lrcNeg s.lacc)))

/-- LRC_CHK d8 (41_lrc8.md R74, 60_exceptions.md R91). -/
def execLrcChk (d8 : Byte) (s : State) : Host.Outcome State Fault Refusal :=
  .next (s.check (d8 == lrcNeg s.lacc) .lrcm)

end Sys2Proof.Machine
end

