-- ==== Sys2Proof/Machine/Dispatch.lean ====
section
/-! DEFINITION. One arm per command of the opcode map (30_encoding.md R46). -/

namespace Sys2Proof.Machine

def exec (i : Instr) (s : State) : Host.Outcome State Fault Refusal :=
  match i with
  | .nop => Sys2Proof.Machine.execNop s
  | .crcInit => Sys2Proof.Machine.execCrcInit s
  | .crcFeed d8 => Sys2Proof.Machine.execCrcFeed d8 s
  | .crcRd => Sys2Proof.Machine.execCrcRd s
  | .crcChk d16 => Sys2Proof.Machine.execCrcChk d16 s
  | .lrcInit => Sys2Proof.Machine.execLrcInit s
  | .lrcFeed d8 => Sys2Proof.Machine.execLrcFeed d8 s
  | .lrcRd => Sys2Proof.Machine.execLrcRd s
  | .lrcChk d8 => Sys2Proof.Machine.execLrcChk d8 s
  | .statRd => Sys2Proof.Machine.execStatRd s
  | .statClr d8 => Sys2Proof.Machine.execStatClr d8 s

end Sys2Proof.Machine
end

