-- ==== Sys2Proof/Machine/Port.lean ====
section
/-! DEFINITION. One word at the command port: decode it, perform its rule or the illegal-command rule
(10_state.md R13). -/

namespace Sys2Proof.Machine

/-- What the block does with one word at its command port (10_state.md R13). -/
def perform (w : Word) (s : State) : Host.Outcome State Fault Refusal :=
  match decode w with
  | .ok i => exec i s
  | .error _ => execIllegal s

end Sys2Proof.Machine
end

