-- ==== Sys2Proof/Machine/Step.lean ====
section
/-! DEFINITION. One step of the block over the host's program: take the next word and perform it
(10_state.md R13, 42_control.md R87). -/

namespace Sys2Proof.Machine

/-- The step for the next word of the program: the index moves on by 1 and the word is performed
(42_control.md R87). At the end of the program the run has ended (42_control.md R88, log entry 2). -/
def step (s : State) : Host.Outcome State Fault Refusal :=
  match s.fetch with
  | some w => perform w s.advance
  | none => .fault .endOfRun

/-- `s` with the table's word `w` as the next word of the program (log entry 3). -/
def State.withFetchWord (s : State) (nbits w : Nat) : State :=
  { s with prog := placeWord s.prog s.index (portWord nbits w) }

end Sys2Proof.Machine
end

