-- ==== Sys2Proof/Machine/Assembler.lean ====
section
/-! DEFINITION. The assembler, the pseudo-instructions and the disassembler (30_encoding.md R52 to R54).
Points of the line syntax the spec leaves open are in log entry 9. No step of the block depends on this file. -/

namespace Sys2Proof.Machine

/-! ## Source commands (R52) -/

/-- Why the assembler refuses a line. -/
inductive AsmError where
  /-- the first token is no mnemonic, pseudo-instruction or `.word` -/
  | unknownMnemonic
  /-- an operand is not `0x` and hexadecimal digits, or a byte of a sequence is not one or two digits -/
  | badOperand
  /-- the operand is larger than the format admits: "refuses a larger value and does not truncate it" (R52) -/
  | operandTooLarge
  /-- a format-N command with an operand -/
  | operandNotAllowed
  /-- more tokens than the line's syntax has, or fewer -/
  | wrongOperandCount
  deriving DecidableEq, Repr

/-- The command for a mnemonic and its operand; an omitted operand is 0 (R52). -/
def instrOf (m : Mnemonic) (operand : Nat) : Instr :=
  match m with
  | .nop => .nop
  | .crcInit => .crcInit
  | .crcFeed => .crcFeed (BitVec.ofNat 8 operand)
  | .crcRd => .crcRd
  | .crcChk => .crcChk (BitVec.ofNat 16 operand)
  | .lrcInit => .lrcInit
  | .lrcFeed => .lrcFeed (BitVec.ofNat 8 operand)
  | .lrcRd => .lrcRd
  | .lrcChk => .lrcChk (BitVec.ofNat 8 operand)
  | .statRd => .statRd
  | .statClr => .statClr (BitVec.ofNat 8 operand)

/-- A source command to a command of the block: only a well-formed one is assembled (R52). -/
def assembleCommand (c : Command) : Except AsmError Instr :=
  if c.wellFormed then .ok (instrOf c.mnemonic (c.operand.getD 0))
  else if c.mnemonic.format = .n then .error .operandNotAllowed
  else .error .operandTooLarge

/-! ## Pseudo-instructions (R53) -/

/-- The seven pseudo-instructions (R53). -/
inductive Pseudo where
  | crcBytes (bytes : List Byte)
  | lrcBytes (bytes : List Byte)
  | crcGen (bytes : List Byte)
  | lrcGen (bytes : List Byte)
  | crcVer (t0 t1 : Byte) (bytes : List Byte)
  | lrcVer (t : Byte) (bytes : List Byte)
  | statClrAll
  deriving DecidableEq, Repr

/-- The expansion to commands, in order (R53). -/
def Pseudo.expand : Pseudo → List Instr
  | .crcBytes bytes => feedCrc bytes
  | .lrcBytes bytes => feedLrc bytes
  | .crcGen bytes => [Instr.crcInit] ++ feedCrc bytes ++ [Instr.crcRd]
  | .lrcGen bytes => [Instr.lrcInit] ++ feedLrc bytes ++ [Instr.lrcRd]
  | .crcVer t0 t1 bytes => [Instr.crcInit] ++ feedCrc bytes ++ [Instr.crcChk (trailerOperand t0 t1)]
  | .lrcVer t bytes => [Instr.lrcInit] ++ feedLrc bytes ++ [Instr.lrcChk t]
  | .statClrAll => [Instr.statClr 0x07]

/-! ## Reading a line -/

/-- A comment begins with `;` and runs to the end of the line (R52). -/
def stripComment (line : List Char) : List Char := line.takeWhile (· != ';')

/-- The tokens of a line, separated by spaces and tabs. -/
def tokens : List Char → List (List Char)
  | [] => []
  | c :: cs =>
    if c = ' ' ∨ c = '\t' then tokens cs
    else
      match cs with
      | [] => [[c]]
      | d :: _ =>
        if d = ' ' ∨ d = '\t' then [c] :: tokens cs
        else
          match tokens cs with
          | [] => [[c]]
          | t :: ts => (c :: t) :: ts

/-- The sixteen digits in upper case, each at the place of its value: ten from `0` (code 48) on, six from `A` (code 65)
on. R54 prints with them and R52 reads them. -/
def hexAlphabet : List Char := List.range' 48 10 |>.append (List.range' 65 6) |>.map Char.ofNat

/-- The value of a hexadecimal digit is its place in the alphabet, in either case (log entry 9). -/
def hexDigitValue (c : Char) : Option Nat := hexAlphabet.findIdx? (· == c.toUpper)

/-- The number that digits after a number `acc` give. -/
def hexValueFrom (acc : Nat) : List Char → Option Nat
  | [] => some acc
  | c :: cs => (hexDigitValue c).bind fun v => hexValueFrom (16 * acc + v) cs

/-- An operand: `0x` and at least one hexadecimal digit (R52). -/
def operandValue : List Char → Option Nat
  | '0' :: 'x' :: d :: ds => hexValueFrom 0 (d :: ds)
  | _ => none

/-- A byte of a pseudo-instruction, of its sequence or of its trailer: one or two hexadecimal digits without a prefix
(00_scope.md R8, R53). DESIGN CHOICE (log entry 9): the spec gives no notation for the trailer bytes. -/
def byteValue : List Char → Option Byte
  | [c] => (hexValueFrom 0 [c]).map (BitVec.ofNat 8)
  | [c, d] => (hexValueFrom 0 [c, d]).map (BitVec.ofNat 8)
  | _ => none

/-- The bytes of a sequence. -/
def bytesOf (ts : List (List Char)) : Except AsmError (List Byte) :=
  match ts.mapM byteValue with
  | some bs => .ok bs
  | none => .error .badOperand

/-- The mnemonic a token spells (R46). -/
def mnemonicOf (t : List Char) : Option Mnemonic := Mnemonic.all.find? (·.text.toList = t)

/-- The pseudo-instruction a line of tokens writes, an error where the first token names none (R53).
DESIGN CHOICE (log entry 9): the trailer bytes t0, t1 and t are written as the bytes of a sequence are, without `0x`, the
`:` is a token of its own, and STAT_CLRALL takes no operand. -/
def pseudoOf (name : List Char) (args : List (List Char)) : Except AsmError Pseudo :=
  if name = "CRC_BYTES".toList then (bytesOf args).map .crcBytes
  else if name = "LRC_BYTES".toList then (bytesOf args).map .lrcBytes
  else if name = "CRC_GEN".toList then (bytesOf args).map .crcGen
  else if name = "LRC_GEN".toList then (bytesOf args).map .lrcGen
  else if name = "CRC_VER".toList then
    match args with
    | t0 :: t1 :: [':'] :: rest =>
      match byteValue t0, byteValue t1 with
      | some b0, some b1 => (bytesOf rest).map (.crcVer b0 b1)
      | _, _ => .error .badOperand
    | _ => .error .wrongOperandCount
  else if name = "LRC_VER".toList then
    match args with
    | t :: [':'] :: rest =>
      match byteValue t with
      | some b => (bytesOf rest).map (.lrcVer b)
      | none => .error .badOperand
    | _ => .error .wrongOperandCount
  else if name = "STAT_CLRALL".toList then
    if args = [] then .ok .statClrAll else .error .wrongOperandCount
  else .error .unknownMnemonic

/-- A command line: a mnemonic, then at most one operand (R52). -/
def assembleMnemonic (m : Mnemonic) (args : List (List Char)) : Except AsmError Instr :=
  match args with
  | [] => assembleCommand ⟨m, none⟩
  | [t] =>
    match operandValue t with
    | some v => assembleCommand ⟨m, some v⟩
    | none => .error .badOperand
  | _ => .error .wrongOperandCount

/-- A `.word` line, the form R54 prints an illegal word in: any 32-bit word. -/
def assembleRaw (args : List (List Char)) : Except AsmError Word :=
  match args with
  | [t] =>
    match operandValue t with
    | some v => if v < 2 ^ 32 then .ok (BitVec.ofNat 32 v) else .error .operandTooLarge
    | none => .error .badOperand
  | _ => .error .wrongOperandCount

/-- The words a line assembles to; a line with no token gives none. -/
def assembleTokens : List (List Char) → Except AsmError (List Word)
  | [] => .ok []
  | name :: args =>
    if name = ".word".toList then (assembleRaw args).map ([·])
    else
      match mnemonicOf name with
      | some m => (assembleMnemonic m args).map fun i => [encode i]
      | none => (pseudoOf name args).map fun p => p.expand.map encode

/-- One line of a source program (R52). -/
def assembleLine (line : String) : Except AsmError (List Word) :=
  assembleTokens (tokens (stripComment line.toList))

/-- The words of a program, "one command per line" (R52). -/
def assembleProgram : List String → Except AsmError (List Word)
  | [] => .ok []
  | line :: lines =>
    match assembleLine line, assembleProgram lines with
    | .ok ws, .ok rest => .ok (ws ++ rest)
    | .error e, _ => .error e
    | .ok _, .error e => .error e

/-! ## Disassembling (R54) -/

/-- The upper-case digit of a value below 16 (R54). -/
def hexDigit (v : Nat) : Char := hexAlphabet.getD v '0'

/-- The low `n` hexadecimal digits of a number, most significant first. -/
def hexDigits : Nat → Nat → List Char
  | 0, _ => []
  | n + 1, v => hexDigits n (v / 16) ++ [hexDigit (v % 16)]

/-- How many digits a format's operand is printed in: two for B, four for H (R54). -/
def Format.operandDigits : Format → Nat
  | .n => 0
  | .b => 2
  | .h => 4

/-- A command as R54 prints it. -/
def instrText (i : Instr) : List Char :=
  match i.operand with
  | none => i.mnemonic.text.toList
  | some v => i.mnemonic.text.toList ++ " 0x".toList ++ hexDigits (Format.operandDigits i.mnemonic.format) v

/-- The disassembler: an illegal word is printed as `.word`, never as a nearby command (R54). -/
def disassemble (w : Word) : String :=
  match decode w with
  | .ok i => String.ofList (instrText i)
  | .error _ => String.ofList (".word 0x".toList ++ hexDigits 8 w.toNat)

end Sys2Proof.Machine
end

