-- ==== Sys2Proof/Machine/Run.lean ====
section
/-! DEFINITION. Sequences of commands: what a list of words or of commands does, one after the other in issue
order (20_memory.md R39, 42_control.md R87). -/

namespace Sys2Proof.Machine

/-- Go on with a next state; a stop stays. -/
def andThen (o : Host.Outcome State Fault Refusal) (f : State → Host.Outcome State Fault Refusal) :
    Host.Outcome State Fault Refusal :=
  match o with
  | .next s => f s
  | .fault r => .fault r
  | .refused r => .refused r

/-- The words of `ws` performed in order (42_control.md R87). -/
def performAll : List Word → State → Host.Outcome State Fault Refusal
  | [], s => .next s
  | w :: ws, s => andThen (perform w s) (performAll ws)

/-- The commands of `is` performed in order. -/
def execAll : List Instr → State → Host.Outcome State Fault Refusal
  | [], s => .next s
  | i :: is, s => andThen (exec i s) (execAll is)

/-- The next state of an outcome, if it has one. -/
def nextState? (o : Host.Outcome State Fault Refusal) : Option State :=
  match o with
  | .next s => some s
  | _ => none

/-- The fault of an outcome, if it is one. -/
def fault? (o : Host.Outcome State Fault Refusal) : Option Fault :=
  match o with
  | .fault r => some r
  | _ => none

/-- The byte a command feeds to the CRC unit, if it feeds one (40_crc16.md R59). -/
def crcByte? : Instr → Option Byte
  | .crcFeed d8 => some d8
  | .nop | .crcInit | .crcRd | .crcChk _ | .lrcInit | .lrcFeed _ | .lrcRd | .lrcChk _ | .statRd | .statClr _ => none

/-- The byte a command feeds to the LRC unit, if it feeds one (41_lrc8.md R72). -/
def lrcByte? : Instr → Option Byte
  | .lrcFeed d8 => some d8
  | .nop | .crcInit | .crcFeed _ | .crcRd | .crcChk _ | .lrcInit | .lrcRd | .lrcChk _ | .statRd | .statClr _ => none

/-- The bytes a list of commands feeds to the CRC unit, in order (40_crc16.md R62). -/
def crcFed (is : List Instr) : List Byte := is.filterMap crcByte?

/-- The bytes a list of commands feeds to the LRC unit, in order (41_lrc8.md R77). -/
def lrcFed (is : List Instr) : List Byte := is.filterMap lrcByte?

end Sys2Proof.Machine
end

