-- ==== Sys2Proof/Machine/Codec.lean ====
section
/-! DEFINITION. What the host does with the block: which bytes it feeds, the trailers it appends, and the commands
it issues to generate or verify a frame (20_memory.md R31 to R34, 40_crc16.md R64, R65, 41_lrc8.md R78, R79,
60_exceptions.md R99, R100). The serialisation of the PDU is the codec's and out of scope (00_scope.md R5). -/

namespace Sys2Proof.Machine

/-- The driver type, which the caller supplies (00_scope.md glossary). -/
inductive DriverType where
  | rtu | ascii | tcp
  deriving DecidableEq, Repr

/-- The unit a frame's checksum comes from. -/
inductive ChecksumUnit where
  | crc16 | lrc8
  deriving DecidableEq, Repr

/-- Which checksum each driver type uses; TCP uses none (20_memory.md R32). -/
def DriverType.checksum : DriverType → Option ChecksumUnit
  | .rtu => some .crc16
  | .ascii => some .lrc8
  | .tcp => none

/-- `range = [address] ++ pdu_bytes` (20_memory.md R31). -/
def checksumRange (address : Byte) (pdu : List Byte) : List Byte := address :: pdu

/-- The two trailer bytes of a CRC, low byte first (20_memory.md R33, 90_conflicts.md C1). -/
def crcTrailer (c : Half) : List Byte := [lowByte c, highByte c]

/-- The RTU frame: address, PDU, CRC-16 trailer (20_memory.md R32, R33). -/
def rtuFrame (address : Byte) (pdu : List Byte) : List Byte :=
  checksumRange address pdu ++ crcTrailer (crc16 (checksumRange address pdu))

/-- The ASCII frame at the byte layer: address, PDU, LRC-8 trailer (20_memory.md R32, R34). -/
def asciiFrame (address : Byte) (pdu : List Byte) : List Byte :=
  checksumRange address pdu ++ [lrc8 (checksumRange address pdu)]

/-- The generate procedure for an RTU frame (40_crc16.md R64). -/
def generateRtu (address : Byte) (pdu : List Byte) : List Instr :=
  [Instr.crcInit] ++ feedCrc (checksumRange address pdu) ++ [Instr.crcRd]

/-- The generate procedure for an ASCII frame (41_lrc8.md R78). -/
def generateAscii (address : Byte) (pdu : List Byte) : List Instr :=
  [Instr.lrcInit] ++ feedLrc (checksumRange address pdu) ++ [Instr.lrcRd]

/-- The verify procedure for a received RTU frame, none where the frame is shorter than 3 bytes, which is the
host's `TruncatedInput` (40_crc16.md R65, 60_exceptions.md R100). -/
def verifyRtu (frame : List Byte) : Option (List Instr) :=
  if frame.length < 3 then none
  else
    some ([Instr.crcInit] ++ feedCrc (frame.take (frame.length - 2)) ++
      [Instr.crcChk (trailerOperand (frame.getD (frame.length - 2) 0) (frame.getD (frame.length - 1) 0))])

/-- The verify procedure for a received ASCII frame, none where the frame is shorter than 2 bytes
(41_lrc8.md R79, 60_exceptions.md R100). -/
def verifyAscii (frame : List Byte) : Option (List Instr) :=
  if frame.length < 2 then none
  else
    some ([Instr.lrcInit] ++ feedLrc (frame.take (frame.length - 1)) ++
      [Instr.lrcChk (frame.getD (frame.length - 1) 0)])

/-- What the host makes of a frame (60_exceptions.md R99, R100). -/
inductive Verdict where
  /-- the frame passes -/
  | accepted
  /-- the frame is dropped; both mismatch conditions are the source's one error kind (92_eei_decisions.md D24) -/
  | checksumMismatch
  /-- the frame is too short to check; the host raises this, not the block -/
  | truncatedInput
  deriving DecidableEq, Repr

/-- The host's reading of RES right after a check: 0x0001 is a mismatch (40_crc16.md R65, 41_lrc8.md R79). -/
def verdictOf (s : State) : Verdict := if s.res = 0x0001 then .checksumMismatch else .accepted

/-- The host's decoding of a received frame by a verify procedure: its verdict, with the block's state after it. -/
def judge (procedure : Option (List Instr)) (s : State) : Option (Verdict × State) :=
  match procedure with
  | none => some (.truncatedInput, s)
  | some is => (nextState? (execAll is s)).map fun t => (verdictOf t, t)

end Sys2Proof.Machine
end

