-- ==== Sys2Proof/Config.lean ====
section
/-! DEFINITION. What a platform fixes: the number of instances of the block (00_scope.md R6, 92_eei_decisions.md D15).
The spec leaves nothing else open (93_implementation_defined.md part 3), so there is no free value here.
The polynomial and the initial value are hard-wired constants of the block, in Machine/Checksum.lean. -/

namespace Sys2Proof

/-- The parameters of a platform: `NUM_UNITS` ≥ 1 (60_exceptions.md R102), an argument of the platform model. -/
structure Config where
  numUnits : Nat
  numUnits_pos : 0 < numUnits
  deriving DecidableEq, Repr

end Sys2Proof
end

