-- ==== Sys2Proof/Machine/Platform.lean ====
section
/-! DEFINITION. A platform that holds `NUM_UNITS` instances of the block (60_exceptions.md R102, 10_state.md R28).
The instances share no state: an event goes to one of them (log entry 7). -/

namespace Sys2Proof.Machine

/-- The instances, each with its own registers and its own host program. -/
structure Platform (cfg : Config) where
  units : Vector State cfg.numUnits
  deriving DecidableEq, Repr

/-- What can happen to a platform: one instance takes its next command, or one instance is reset. -/
inductive Platform.Event (cfg : Config) where
  /-- the instance takes the next word of its program (10_state.md R13) -/
  | command (unit : Fin cfg.numUnits)
  /-- the platform resets the instance (70_reset_and_hazards.md R104) -/
  | reset (unit : Fin cfg.numUnits)
  deriving DecidableEq, Repr

/-- "Instances start independently, each from its own reset" (60_exceptions.md R102). -/
def Platform.start (cfg : Config) : Platform cfg := ⟨Vector.replicate cfg.numUnits State.reset⟩

/-- The state of one instance. -/
def Platform.unit {cfg : Config} (p : Platform cfg) (u : Fin cfg.numUnits) : State := p.units[u.val]

/-- The platform with one instance's state replaced. -/
def Platform.setUnit {cfg : Config} (p : Platform cfg) (u : Fin cfg.numUnits) (s : State) : Platform cfg :=
  ⟨p.units.set u.val s⟩

/-- The instance an event goes to. -/
def Platform.Event.target {cfg : Config} : Platform.Event cfg → Fin cfg.numUnits
  | .command u => u
  | .reset u => u

/-- One event. DESIGN CHOICE (log entry 16): a command event to an instance whose own program has ended stops with that
instance's `endOfRun`, for which the spec gives no rule. -/
def Platform.step {cfg : Config} (e : Platform.Event cfg) (p : Platform cfg) :
    Host.Outcome (Platform cfg) Fault Refusal :=
  match e with
  | .command u =>
    match Machine.step (p.unit u) with
    | .next s => .next (p.setUnit u s)
    | .fault r => .fault r
    | .refused r => .refused r
  | .reset u => .next (p.setUnit u (p.unit u).platformReset)

/-- The events of a list in order. DESIGN CHOICE (log entry 16): the first event that stops ends the list, so the events
after it are not performed, those of other instances included. -/
def Platform.run {cfg : Config} : List (Platform.Event cfg) → Platform cfg → Host.Outcome (Platform cfg) Fault Refusal
  | [], p => .next p
  | e :: es, p =>
    match Platform.step e p with
    | .next q => Platform.run es q
    | .fault r => .fault r
    | .refused r => .refused r

end Sys2Proof.Machine
end

