-- ==== Sys2Proof/Safety.lean ====
section
/-! DEFINITION. The invariant of a state, and the premises that claims about a run take. -/

namespace Sys2Proof.Machine

/-- STATUS bits 7 to 3 hold 0 (10_state.md R19), and the index, which starts at 0 and moves by 1 up to the end of
the program, has not passed it (42_control.md R87, R88). -/
abbrev State.Inv (s : State) : Prop := s.status &&& 0xF8#8 = 0#8 ∧ s.index ≤ s.prog.length

/-- "no illegal word issued", the premise of 93_implementation_defined.md M10. -/
abbrev NoIllegalWord (p : List Word) : Prop := ∀ w ∈ p, legal w = true

/-- The one effect of an illegal word (30_encoding.md R51): ILL becomes 1; CRC, LACC, RES and the other STATUS bits
are unchanged. -/
def IllegalEffect (w : Word) (s : State) : Prop :=
  ∃ t, perform w s = .next t ∧ t.crc = s.crc ∧ t.lacc = s.lacc ∧ t.res = s.res ∧
    t.readStatus = s.readStatus ||| 0x04#8

/-- A STAT_CLR whose mask has bit 2 set, which can hide an illegal word (42_control.md R88). -/
def clearsIll : Instr → Bool
  | .statClr d8 => d8.getLsbD 2
  | .nop | .crcInit | .crcFeed _ | .crcRd | .crcChk _ | .lrcInit | .lrcFeed _ | .lrcRd | .lrcChk _ | .statRd => false

/-- The program holds no STAT_CLR whose mask has bit 2 set (42_control.md R88). -/
abbrev KeepsIll (p : List Word) : Prop := ∀ w ∈ p, ∀ i, decode w = .ok i → clearsIll i = false

/-- A command of the CRC unit (30_encoding.md R46, column Unit). -/
def usesCrcUnit : Instr → Bool
  | .crcInit | .crcFeed _ | .crcRd | .crcChk _ => true
  | .nop | .lrcInit | .lrcFeed _ | .lrcRd | .lrcChk _ | .statRd | .statClr _ => false

/-- A command of the LRC unit (30_encoding.md R46, column Unit). -/
def usesLrcUnit : Instr → Bool
  | .lrcInit | .lrcFeed _ | .lrcRd | .lrcChk _ => true
  | .nop | .crcInit | .crcFeed _ | .crcRd | .crcChk _ | .statRd | .statClr _ => false

/-- A command that writes RES (10_state.md R17). -/
def writesRes : Instr → Bool
  | .crcRd | .crcChk _ | .lrcRd | .lrcChk _ | .statRd => true
  | .nop | .crcInit | .crcFeed _ | .lrcInit | .lrcFeed _ | .statClr _ => false

/-- The first CRC command of the list is CRC_INIT, the host's duty before each RTU frame (70_reset_and_hazards.md R106). -/
def initsCrcFirst (is : List Instr) : Bool :=
  match is.find? usesCrcUnit with
  | some i => i == .crcInit
  | none => true

/-- The first LRC command of the list is LRC_INIT, the host's duty before each ASCII frame (70_reset_and_hazards.md R106). -/
def initsLrcFirst (is : List Instr) : Bool :=
  match is.find? usesLrcUnit with
  | some i => i == .lrcInit
  | none => true

/-- A safe run: it completes, and the program it performs holds no illegal word. -/
def SafeRun (p : List Word) (s : State) : Prop := NoIllegalWord p ∧ ∃ t, performAll p s = .next t

end Sys2Proof.Machine
end

