-- ==== Sys2Proof/Certificates/Slice0/Obligations.lean ====
section
/-! DEFINITION. The statements about the block, from the numbered rules of spec/.
A register of a next state is read by name, STATUS through `State.readStatus`, which is what a host sees
(10_state.md R13, R19). The program and the index are the model's own (42_control.md R87, log entry 1); one statement
of its own says that no command touches them. -/

open Sys2Proof Sys2Proof.Machine

/-! ## Reset -/

/-- 10_state.md R25. -/
def Obligations.ResetRegisterValues : Prop :=
  State.reset.crc = 0xFFFF#16 ∧ State.reset.lacc = 0x00#8 ∧ State.reset.res = 0x0000#16 ∧
  State.reset.status = 0x00#8 ∧ State.reset.readStatus = 0x00#8 ∧
  ∀ s : State, (∃ t : State, exec .crcInit s = .next t ∧ t.crc = State.reset.crc) ∧
    (∃ t : State, exec .lrcInit s = .next t ∧ t.lacc = State.reset.lacc)

/-- 70_reset_and_hazards.md section 1: from every state, a platform reset puts the four registers at their reset
values; that it leaves the host's program and index is the model's choice (log entry 8). -/
def Obligations.PlatformResetFromEveryState : Prop :=
  ∀ s : State, s.platformReset.crc = 0xFFFF#16 ∧ s.platformReset.lacc = 0x00#8 ∧ s.platformReset.res = 0x0000#16 ∧
    s.platformReset.readStatus = 0x00#8 ∧ s.platformReset.prog = s.prog ∧ s.platformReset.index = s.index

/-! ## The commands, one by one -/

/-- 42_control.md R81. -/
def Obligations.NopChangesNothing : Prop :=
  (∀ s : State, exec .nop s = .next s) ∧
  decode 0x00000000#32 = .ok .nop ∧
  (∀ (w : Word) (s : State), opField w = 0x00#8 → upperField w ≠ 0 → IllegalEffect w s)

/-- 40_crc16.md R58. -/
def Obligations.CrcInitLoadsInit : Prop :=
  (∀ s : State, ∃ t : State, exec .crcInit s = .next t ∧ t.crc = 0xFFFF#16 ∧ t.lacc = s.lacc ∧ t.res = s.res ∧
    t.readStatus = s.readStatus) ∧
  decode 0x00000001#32 = .ok .crcInit ∧
  (∀ s : State, s.crc = 0xFFFF#16 → exec .crcInit s = .next s) ∧
  (∀ (w : Word) (s : State), opField w = 0x01#8 → upperField w ≠ 0 → IllegalEffect w s)

/-- 40_crc16.md R59, with its corner cases. -/
def Obligations.CrcFeedStepsCrc : Prop :=
  (∀ (d8 : Byte) (s : State), ∃ t : State, exec (.crcFeed d8) s = .next t ∧ t.crc = crcStep s.crc d8 ∧
    t.lacc = s.lacc ∧ t.res = s.res ∧ t.readStatus = s.readStatus) ∧
  (∀ d8 : Byte, decode (BitVec.ofNat 32 (d8.toNat * 0x10000 + 0x02)) = .ok (.crcFeed d8)) ∧
  (∀ (w : Word) (s : State), opField w = 0x02#8 → (hi8Field w ≠ 0 ∨ rsvField w ≠ 0) → IllegalEffect w s) ∧
  crcStep 0x0000 0x00 = 0x0000#16 ∧ crcStep 0xFFFF 0xFF = 0x00FF#16 ∧ crcStep 0xFFFF 0x00 = 0x40BF#16 ∧
  crcStep 0xFFFF 0x01 = 0x807E#16 ∧
  (∀ s : List Byte, crcFrom (crc16 s) [lowByte (crc16 s), highByte (crc16 s)] = 0x0000#16)

/-- 40_crc16.md R60. -/
def Obligations.CrcRdCopiesCrcToRes : Prop :=
  (∀ s : State, ∃ t : State, exec .crcRd s = .next t ∧ t.res = s.crc ∧ t.crc = s.crc ∧ t.lacc = s.lacc ∧
    t.readStatus = s.readStatus ∧ exec .crcRd t = .next t) ∧
  decode 0x00000003#32 = .ok .crcRd ∧
  (∀ s : State, ∃ t u : State, execAll [Instr.crcInit, .crcRd] s = .next t ∧ t.res = 0xFFFF#16 ∧
    exec .crcRd s.platformReset = .next u ∧ u.res = 0xFFFF#16) ∧
  (∃ t : State, execAll [Instr.crcInit, .crcFeed 0x01, .crcFeed 0x03, .crcFeed 0x00, .crcFeed 0x00, .crcFeed 0x00,
    .crcFeed 0x0A, .crcRd] State.reset = .next t ∧ t.res = 0xCDC5#16 ∧ crcTrailer t.res = [0xC5#8, 0xCD#8])

/-- 40_crc16.md R61, with its corner cases. -/
def Obligations.CrcChkComparesTrailer : Prop :=
  (∀ (d16 : Half) (s : State), ∃ t : State, exec (.crcChk d16) s = .next t ∧ t.crc = s.crc ∧ t.lacc = s.lacc ∧
    (d16 = s.crc → t.res = 0x0000#16 ∧ t.readStatus = s.readStatus) ∧
    (d16 ≠ s.crc → t.res = 0x0001#16 ∧ t.readStatus = s.readStatus ||| 0x01#8)) ∧
  (∀ d16 : Half, decode (BitVec.ofNat 32 (d16.toNat * 0x10000 + 0x04)) = .ok (.crcChk d16)) ∧
  (∀ (t0 t1 : Byte) (c : Half), trailerOperand t0 t1 = c ↔ t0 = lowByte c ∧ t1 = highByte c) ∧
  (∀ t0 t1 : Byte, trailerOperand t1 t0 = trailerOperand t0 t1 ↔ t0 = t1) ∧
  (∀ (d16 : Half) (s : State), ∃ t : State, execAll [Instr.crcInit, .crcChk d16] s = .next t ∧
    (t.res = 0x0000#16 ↔ d16 = 0xFFFF#16)) ∧
  (∀ (range : List Byte) (d16 : Half) (s : State), ∃ t : State,
    execAll ([Instr.crcInit] ++ feedCrc (range ++ crcTrailer (crc16 range)) ++ [Instr.crcChk d16]) s = .next t ∧
    (t.res = 0x0000#16 ↔ d16 = 0x0000#16))

/-- 41_lrc8.md R71. -/
def Obligations.LrcInitClearsLacc : Prop :=
  (∀ s : State, ∃ t : State, exec .lrcInit s = .next t ∧ t.lacc = 0x00#8 ∧ t.crc = s.crc ∧ t.res = s.res ∧
    t.readStatus = s.readStatus) ∧
  decode 0x00000011#32 = .ok .lrcInit ∧
  (∀ (w : Word) (s : State), opField w = 0x11#8 → upperField w ≠ 0 → IllegalEffect w s)

/-- 41_lrc8.md R72, with its corner cases. -/
def Obligations.LrcFeedAddsModulo256 : Prop :=
  (∀ (d8 : Byte) (s : State), ∃ t : State, exec (.lrcFeed d8) s = .next t ∧
    t.lacc.toNat = (s.lacc.toNat + d8.toNat) % 256 ∧
    t.crc = s.crc ∧ t.res = s.res ∧ t.readStatus = s.readStatus) ∧
  (∀ d8 : Byte, decode (BitVec.ofNat 32 (d8.toNat * 0x10000 + 0x12)) = .ok (.lrcFeed d8)) ∧
  (∀ (w : Word) (s : State), opField w = 0x12#8 → (hi8Field w ≠ 0 ∨ rsvField w ≠ 0) → IllegalEffect w s) ∧
  (∀ s : State, execAll [Instr.lrcFeed 0x00] s = .next s ∧ execAll [Instr.lrcFeed 0x80, .lrcFeed 0x80] s = .next s)

/-- 41_lrc8.md R73. -/
def Obligations.LrcRdNegatesLaccIntoRes : Prop :=
  (∀ s : State, ∃ t : State, exec .lrcRd s = .next t ∧ t.res.toNat = (256 - s.lacc.toNat) % 256 ∧
    t.res = zext16 (lrcNeg s.lacc) ∧ highByte t.res = 0x00#8 ∧ t.lacc = s.lacc ∧ t.crc = s.crc ∧
    t.readStatus = s.readStatus) ∧
  decode 0x00000013#32 = .ok .lrcRd

/-- 41_lrc8.md R74, with its corner cases. -/
def Obligations.LrcChkComparesTrailer : Prop :=
  (∀ (d8 : Byte) (s : State), ∃ t : State, exec (.lrcChk d8) s = .next t ∧ t.crc = s.crc ∧ t.lacc = s.lacc ∧
    (d8 = lrcNeg s.lacc → t.res = 0x0000#16 ∧ t.readStatus = s.readStatus) ∧
    (d8 ≠ lrcNeg s.lacc → t.res = 0x0001#16 ∧ t.readStatus = s.readStatus ||| 0x02#8)) ∧
  (∀ d8 : Byte, decode (BitVec.ofNat 32 (d8.toNat * 0x10000 + 0x14)) = .ok (.lrcChk d8)) ∧
  (∀ (d8 : Byte) (s : State), ∃ t : State, execAll [Instr.lrcInit, .lrcChk d8] s = .next t ∧
    (t.res = 0x0000#16 ↔ d8 = 0x00#8)) ∧
  (∀ (range : List Byte) (d8 : Byte) (s : State), ∃ t u : State,
    execAll ([Instr.lrcInit] ++ feedLrc (range ++ [lrc8 range])) s = .next t ∧ t.lacc = 0x00#8 ∧
    exec (.lrcChk d8) t = .next u ∧ (u.res = 0x0000#16 ↔ d8 = 0x00#8))

/-- 42_control.md R82. -/
def Obligations.StatRdCopiesStatusToRes : Prop :=
  (∀ s : State, ∃ t : State, exec .statRd s = .next t ∧ t.res = zext16 s.readStatus ∧ t.res >>> 3 = 0x0000#16 ∧
    t.crc = s.crc ∧ t.lacc = s.lacc ∧ t.readStatus = s.readStatus) ∧
  decode 0x00000020#32 = .ok .statRd ∧
  (∀ (w : Word) (s : State), legal w = false → ∃ t u : State, perform w s = .next t ∧ exec .statRd t = .next u ∧
    u.res.getLsbD 2 = true)

/-- 42_control.md R83, with its corner cases. -/
def Obligations.StatClrClearsSelectedBits : Prop :=
  (∀ (d8 : Byte) (s : State), ∃ t : State, exec (.statClr d8) s = .next t ∧
    t.readStatus = s.readStatus &&& ~~~d8 &&& 0x07#8 ∧
    (∀ k < 3, t.readStatus.getLsbD k = (s.readStatus.getLsbD k && !d8.getLsbD k)) ∧
    t.crc = s.crc ∧ t.lacc = s.lacc ∧ t.res = s.res) ∧
  (∀ d8 : Byte, decode (BitVec.ofNat 32 (d8.toNat * 0x10000 + 0x21)) = .ok (.statClr d8)) ∧
  (∀ (w : Word) (s : State), opField w = 0x21#8 → (hi8Field w ≠ 0 ∨ rsvField w ≠ 0) → IllegalEffect w s) ∧
  (∀ s : State, exec (.statClr 0xFF) s = exec (.statClr 0x07) s) ∧
  (∀ s : State, ∃ t : State, exec (.statClr 0x00) s = .next t ∧ t.readStatus = s.readStatus ∧ t.crc = s.crc ∧
    t.lacc = s.lacc ∧ t.res = s.res)

/-- 30_encoding.md R51: an illegal word has exactly one effect, and the block then accepts the next word. A program
that holds one makes no safe run, which is how the model treats it as the program's fault. -/
def Obligations.IllegalWordSetsIllAndNothingElse : Prop :=
  ∀ w : Word, legal w = false → ∀ s : State, IllegalEffect w s ∧
    (∀ ws : List Word, ∃ t : State, perform w s = .next t ∧ performAll (w :: ws) s = performAll ws t) ∧
    ∀ p : List Word, w ∈ p → ¬ SafeRun p s

/-! ## Encoding -/

/-- 30_encoding.md R48: the decoder reads back what the encoder writes, with every operand. -/
def Obligations.DecodeEncodeRoundTrip : Prop :=
  ∀ i : Instr, decode (encode i) = .ok i

/-- 30_encoding.md R48: a word that decodes is the word of the command it decodes to, so no two words share a
command and no bit of a legal word is dropped. -/
def Obligations.EncodeDecodeRoundTrip : Prop :=
  ∀ (w : Word) (i : Instr), decode w = .ok i → encode i = w

/-- 30_encoding.md R48: a word decodes to the row whose `(w AND mask) = match`, with the operand its format takes, and
at most one row matches; a word no row matches is illegal. -/
def Obligations.DecodeAgreesWithOpcodeTable : Prop :=
  (∀ (w : Word) (m : Mnemonic), (∃ i : Instr, decode w = .ok i ∧ i.mnemonic = m) ↔ w &&& m.format.mask = m.pattern) ∧
  (∀ (w : Word) (m m' : Mnemonic), w &&& m.format.mask = m.pattern → w &&& m'.format.mask = m'.pattern → m = m') ∧
  (∀ (w : Word) (i : Instr), decode w = .ok i → i.operand =
    match i.mnemonic.format with
    | .n => none
    | .b => some (d8Field w).toNat
    | .h => some (d16Field w).toNat)

/-- 30_encoding.md R47: which words are legal, and how many. -/
def Obligations.LegalWordsAreCounted : Prop :=
  (∀ w : Word, (∃ i : Instr, decode w = .ok i) ↔ ∃ m ∈ Mnemonic.all, opField w = m.opcode ∧
    match m.format with
    | .n => upperField w = 0
    | .b => hi8Field w = 0 ∧ rsvField w = 0
    | .h => rsvField w = 0) ∧
  (∀ f : Format, ∃ l : List Word, l.Nodup ∧
    l.length = (match f with | .n => 6 | .b => 4 * 256 | .h => 65536) ∧
    ∀ w : Word, w ∈ l ↔ ∃ i : Instr, decode w = .ok i ∧ i.mnemonic.format = f) ∧
  (∀ w : Word, (0x05 ≤ (opField w).toNat ∧ (opField w).toNat ≤ 0x10 ∨
    0x15 ≤ (opField w).toNat ∧ (opField w).toNat ≤ 0x1F ∨ 0x22 ≤ (opField w).toNat) → ∃ e : Illegal, decode w = .error e) ∧
  decode 0x00000000#32 = .ok .nop ∧ (∃ e : Illegal, decode 0xFFFFFFFF#32 = .error e)

/-- 30_encoding.md R45: operands are unsigned and unchanged, and the first trailer byte sits in w[23:16]. -/
def Obligations.OperandsAreTakenUnchanged : Prop :=
  (∀ (w : Word) (d8 : Byte), (decode w = .ok (.crcFeed d8) ∨ decode w = .ok (.lrcFeed d8) ∨
    decode w = .ok (.lrcChk d8) ∨ decode w = .ok (.statClr d8)) → d8 = d8Field w) ∧
  (∀ (w : Word) (d16 : Half), decode w = .ok (.crcChk d16) → d16 = d16Field w) ∧
  (∀ b : Byte, (zext16 b).toNat = b.toNat) ∧
  (∀ t0 t1 : Byte, (trailerOperand t0 t1).toNat = t0.toNat + 256 * t1.toNat ∧
    d8Field (encode (.crcChk (trailerOperand t0 t1))) = t0 ∧ hi8Field (encode (.crcChk (trailerOperand t0 t1))) = t1)

/-- Words of 95_test_vectors.md V43 and one written word of each row of 30_encoding.md R46. The spec gives an illegal
word the one answer `Illegal`; that the decoder names which of two reasons holds is the model's choice (log entry 10). -/
def Obligations.WrittenWordsDecode : Prop :=
  decode 0b00000000000000000000000000000000#32 = .ok .nop ∧
  decode 0b00000000000000000000000000000001#32 = .ok .crcInit ∧
  decode 0b00000000111111110000000000000010#32 = .ok (.crcFeed 0xFF) ∧
  decode 0b00000000000000000000000000000011#32 = .ok .crcRd ∧
  decode 0b10101011110011010000000000000100#32 = .ok (.crcChk 0xABCD) ∧
  decode 0b00000000000000000000000000010001#32 = .ok .lrcInit ∧
  decode 0b00000000100000000000000000010010#32 = .ok (.lrcFeed 0x80) ∧
  decode 0b00000000000000000000000000010011#32 = .ok .lrcRd ∧
  decode 0b00000000111100100000000000010100#32 = .ok (.lrcChk 0xF2) ∧
  decode 0b00000000000000000000000000100000#32 = .ok .statRd ∧
  decode 0b00000000000000010000000000100001#32 = .ok (.statClr 0x01) ∧
  decode 0x00000100#32 = .error .reservedBits ∧ decode 0x01000002#32 = .error .reservedBits ∧
  decode 0x00000005#32 = .error .reservedOpcode ∧ decode 0x80000021#32 = .error .reservedBits

/-! ## Steps and runs -/

/-- 10_state.md section 1 and 42_control.md section 3: a step takes the word at the index, moves the index on by 1,
and performs the decoded command or the illegal-command rule; the response port shows the new RES and STATUS. -/
def Obligations.StepPerformsTheDecodedWord : Prop :=
  (∀ (s : State) (w : Word) (i : Instr), s.prog[s.index]? = some w → decode w = .ok i →
    step s = exec i { s with index := s.index + 1 }) ∧
  (∀ (s : State) (w : Word) (e : Illegal), s.prog[s.index]? = some w → decode w = .error e →
    IllegalEffect w { s with index := s.index + 1 } ∧ step s = perform w { s with index := s.index + 1 }) ∧
  (∀ s : State, s.response.res = s.res ∧ s.response.status = s.readStatus)

/-- 30_encoding.md section 4 ("Decoding is a total function") and 93_implementation_defined.md part 3: every word is
performed in every state, and no command touches the host's program or its index (42_control.md section 3). -/
def Obligations.EveryWordCompletes : Prop :=
  ∀ (w : Word) (s : State), ∃ t : State, perform w s = .next t ∧ t.prog = s.prog ∧ t.index = s.index

/-- The model's choice (log entry 2): a step completes exactly while the program has a word left, and then advances
the index by exactly 1 (42_control.md section 3); at the end it stops with `endOfRun`. -/
def Obligations.StepStopsOnlyAtTheEndOfTheProgram : Prop :=
  (∀ s : State, s.index < s.prog.length → ∃ t : State, step s = .next t ∧ t.index = s.index + 1 ∧ t.prog = s.prog) ∧
  (∀ s : State, s.prog.length ≤ s.index → step s = .fault .endOfRun)

/-- 42_control.md section 3: a run of a program performs its words in order, skips and repeats none, and ends after
the last, in the state its words lead to. That the model then stops with `endOfRun` is its choice (log entry 2). -/
def Obligations.RunPerformsEveryWordAndEnds : Prop :=
  ∀ (p : List Word) (s : State), ∃ t u : State,
    Host.Core.run core p.length (s.load p) = .next t ∧ performAll p s = .next u ∧
    t.index = p.length ∧ t.prog = p ∧ t.crc = u.crc ∧ t.lacc = u.lacc ∧ t.res = u.res ∧ t.status = u.status ∧
    Host.Core.run core (p.length + 1) (s.load p) = .fault Fault.endOfRun

/-- 42_control.md section 3, the conclusion of R88 that the spec marks as derived: with ILL = 0 at the start and no
STAT_CLR whose mask has bit 2 set, ILL = 0 at the end if and only if the program held no illegal word. -/
def Obligations.IllShowsWhetherAnIllegalWordWasIssued : Prop :=
  ∀ (p : List Word) (s t : State), s.readStatus.getLsbD 2 = false → KeepsIll p → performAll p s = .next t →
    (t.readStatus.getLsbD 2 = false ↔ NoIllegalWord p)

/-! ## Invariants and rules of the whole machine -/

/-- STATUS bits 7 to 3 hold 0 and the index stays inside the program, whatever the step (10_state.md section 2,
42_control.md section 3), and whenever the platform resets the block. -/
def Obligations.StepKeepsTheInvariant : Prop :=
  (∀ s t : State, s.Inv → step s = .next t → t.Inv) ∧ (∀ s : State, s.Inv → s.platformReset.Inv)

/-- The invariant holds at reset and when the host takes up a program. -/
def Obligations.ResetMeetsTheInvariant : Prop :=
  State.reset.Inv ∧ ∀ (p : List Word) (s : State), s.Inv → (s.load p).Inv

/-- 10_state.md section 4, the register read and write table: what each command may write. -/
def Obligations.RegistersAreWrittenByTheirCommandsOnly : Prop :=
  ∀ (i : Instr) (s : State), ∃ t : State, exec i s = .next t ∧
    ((i ≠ .crcInit ∧ ∀ d8 : Byte, i ≠ .crcFeed d8) → t.crc = s.crc) ∧
    ((i ≠ .lrcInit ∧ ∀ d8 : Byte, i ≠ .lrcFeed d8) → t.lacc = s.lacc) ∧
    (writesRes i = false → t.res = s.res) ∧
    (((∀ d16 : Half, i ≠ .crcChk d16) ∧ (∀ d8 : Byte, i ≠ .lrcChk d8) ∧
      ∀ d8 : Byte, i ≠ .statClr d8) → t.status = s.status)

/-- 10_state.md section 4, the register read and write table: what each command may read. Two states that agree on
the registers the table lets a command read get the same value in every register the command writes. A check sets one
bit of STATUS and keeps the others, so its new STATUS is also a function of the old one. -/
def Obligations.CommandsReadTheirRegistersOnly : Prop :=
  ∀ (i : Instr) (s s' t t' : State), exec i s = .next t → exec i s' = .next t' →
    (i = .crcInit → t.crc = t'.crc) ∧
    ((∃ d8 : Byte, i = .crcFeed d8) → s.crc = s'.crc → t.crc = t'.crc) ∧
    (i = .lrcInit → t.lacc = t'.lacc) ∧
    ((∃ d8 : Byte, i = .lrcFeed d8) → s.lacc = s'.lacc → t.lacc = t'.lacc) ∧
    ((i = .crcRd ∨ ∃ d16 : Half, i = .crcChk d16) → s.crc = s'.crc → t.res = t'.res) ∧
    ((i = .lrcRd ∨ ∃ d8 : Byte, i = .lrcChk d8) → s.lacc = s'.lacc → t.res = t'.res) ∧
    (i = .statRd → s.readStatus = s'.readStatus → t.res = t'.res) ∧
    ((∃ d8 : Byte, i = .statClr d8) → s.readStatus = s'.readStatus → t.readStatus = t'.readStatus) ∧
    ((∃ d16 : Half, i = .crcChk d16) → s.crc = s'.crc → s.readStatus = s'.readStatus →
      t.readStatus = t'.readStatus) ∧
    ((∃ d8 : Byte, i = .lrcChk d8) → s.lacc = s'.lacc → s.readStatus = s'.readStatus →
      t.readStatus = t'.readStatus)

/-- 10_state.md R17. -/
def Obligations.ResIsWrittenByResultCommandsOnly : Prop :=
  (∀ (w : Word) (s : State), ∃ t : State, perform w s = .next t ∧
    ((∃ e : Illegal, decode w = .error e) → t.res = s.res) ∧
    (∀ i : Instr, decode w = .ok i → writesRes i = false → t.res = s.res) ∧
    (decode w = .ok .crcRd → t.res = s.crc) ∧
    ((decode w = .ok .lrcRd ∨ decode w = .ok .statRd) → highByte t.res = 0x00#8) ∧
    (∀ d16 : Half, decode w = .ok (.crcChk d16) → t.res = if d16 = s.crc then 0x0000#16 else 0x0001#16) ∧
    (∀ d8 : Byte, decode w = .ok (.lrcChk d8) → t.res = if d8 = lrcNeg s.lacc then 0x0000#16 else 0x0001#16)) ∧
  (∀ s : State, s.platformReset.res = 0x0000#16 ∧ s.response.res = s.res)

/-- 10_state.md R19. -/
def Obligations.ReservedStatusBitsReadZero : Prop :=
  (∀ (s : State) (k : Nat), 3 ≤ k → s.readStatus.getLsbD k = false ∧ s.response.status.getLsbD k = false) ∧
  (∀ (w : Word) (s t : State), perform w s = .next t → s.status &&& 0xF8#8 = 0#8 → t.status &&& 0xF8#8 = 0#8) ∧
  (∀ (d8 : Byte) (s : State), exec (.statClr (d8 ||| 0xF8#8)) s = exec (.statClr (d8 &&& 0x07#8)) s)

/-- 10_state.md R27: each unit is blind to the other's register, and a frame may be fed to both. -/
def Obligations.UnitsAreIndependent : Prop :=
  (∀ (i : Instr) (s : State) (v : Byte), usesCrcUnit i = true → ∃ t : State, exec i s = .next t ∧ t.lacc = s.lacc ∧
    exec i (s.writeLacc v) = .next (t.writeLacc v)) ∧
  (∀ (i : Instr) (s : State) (v : Half), usesLrcUnit i = true → ∃ t : State, exec i s = .next t ∧ t.crc = s.crc ∧
    exec i (s.writeCrc v) = .next (t.writeCrc v)) ∧
  (∀ (is : List Instr) (s : State), (∀ i ∈ is, i ≠ .crcInit ∧ i ≠ .lrcInit) → ∃ t : State, execAll is s = .next t ∧
    t.crc = crcFrom s.crc (crcFed is) ∧ t.lacc = lrcSumFrom s.lacc (lrcFed is))

/-- 60_exceptions.md R94: a STATUS bit that is set stays set until a STAT_CLR selects it or the block is reset; RES
shows the verdict of the last CHK until a later command writes RES. -/
def Obligations.StatusBitsAreSticky : Prop :=
  (∀ (w : Word) (s t : State) (k : Nat), perform w s = .next t → s.readStatus.getLsbD k = true →
    t.readStatus.getLsbD k = true ∨ ∃ d8 : Byte, decode w = .ok (.statClr d8) ∧ d8.getLsbD k = true) ∧
  (∀ s : State, s.platformReset.readStatus = 0x00#8) ∧
  (∀ (is : List Instr) (s : State), (∀ i ∈ is, writesRes i = false) → ∃ t : State, execAll is s = .next t ∧
    t.res = s.res)

/-- 60_exceptions.md R89: exactly three conditions, each with its bit, who raises it and what it records. -/
def Obligations.ConditionsAreRaisedAndRecorded : Prop :=
  ∀ (w : Word) (s : State), ∃ t : State, perform w s = .next t ∧
    ((∀ d8 : Byte, decode w ≠ .ok (.statClr d8)) →
      (t.readStatus.getLsbD 0 = true ↔ s.readStatus.getLsbD 0 = true ∨
        ∃ d16 : Half, decode w = .ok (.crcChk d16) ∧ d16 ≠ s.crc) ∧
      (t.readStatus.getLsbD 1 = true ↔ s.readStatus.getLsbD 1 = true ∨
        ∃ d8 : Byte, decode w = .ok (.lrcChk d8) ∧ d8 ≠ lrcNeg s.lacc) ∧
      (t.readStatus.getLsbD 2 = true ↔ s.readStatus.getLsbD 2 = true ∨ ∃ e : Illegal, decode w = .error e)) ∧
    (∀ d8 : Byte, decode w = .ok (.statClr d8) → ∀ k : Nat, t.readStatus.getLsbD k = true →
      s.readStatus.getLsbD k = true) ∧
    ((∃ d16 : Half, decode w = .ok (.crcChk d16) ∧ d16 ≠ s.crc) → t.res = 0x0001#16) ∧
    ((∃ d8 : Byte, decode w = .ok (.lrcChk d8) ∧ d8 ≠ lrcNeg s.lacc) → t.res = 0x0001#16) ∧
    ((∃ e : Illegal, decode w = .error e) → t.res = s.res)

/-- 60_exceptions.md section 2, which the spec derives: a word raises at most one condition. -/
def Obligations.AWordRaisesAtMostOneCondition : Prop :=
  ∀ (w : Word) (s t : State) (j k : Nat), perform w s = .next t →
    s.readStatus.getLsbD j = false → t.readStatus.getLsbD j = true →
    s.readStatus.getLsbD k = false → t.readStatus.getLsbD k = true → j = k

/-- 70_reset_and_hazards.md R108. -/
def Obligations.NoTimingHazards : Prop :=
  (∀ (d8 : Byte) (s : State), ∃ t : State, execAll [Instr.crcFeed d8, .crcRd] s = .next t ∧
    t.res = crcStep s.crc d8 ∧ t.response.res = t.res) ∧
  (∀ (d8 : Byte) (s : State), ∃ t : State, execAll [Instr.lrcFeed d8, .lrcRd] s = .next t ∧
    t.res = zext16 (lrcNeg (s.lacc + d8))) ∧
  (∀ (d8 : Byte) (d16 : Half) (s : State), ∃ t : State, execAll [Instr.crcFeed d8, .crcChk d16] s = .next t ∧
    (t.res = 0x0000#16 ↔ d16 = crcStep s.crc d8)) ∧
  (∀ (d8 e8 : Byte) (s : State), ∃ t : State, execAll [Instr.lrcFeed d8, .lrcChk e8] s = .next t ∧
    (t.res = 0x0000#16 ↔ e8 = lrcNeg (s.lacc + d8))) ∧
  (∀ (d16 : Half) (s : State), d16 ≠ s.crc → ∃ t : State, execAll [Instr.crcChk d16, .statRd] s = .next t ∧
    t.res.getLsbD 0 = true) ∧
  (∀ (d8 : Byte) (s : State), d8 ≠ lrcNeg s.lacc → ∃ t : State, execAll [Instr.lrcChk d8, .statRd] s = .next t ∧
    t.res.getLsbD 1 = true)

/-- 40_crc16.md section 2 ("the check may be repeated", "with the same result each time") and 42_control.md
section 1: a read, a check, an init and a clear done twice is done once. -/
def Obligations.ReadsChecksAndInitsAreIdempotent : Prop :=
  ∀ (i : Instr) (s t : State), (∀ d8 : Byte, i ≠ .crcFeed d8 ∧
    i ≠ .lrcFeed d8) → exec i s = .next t → exec i t = .next t

/-! ## The CRC-16 function -/

/-- 40_crc16.md section 1: the bit-serial procedure, which the spec gives from general knowledge (log entry 5). -/
def Obligations.CrcStepIsTheBitSerialProcedure : Prop :=
  (∀ (c : Half) (b : Byte), crcStep c b =
    (List.range 8).foldl (fun (c : Half) _ => if c.getLsbD 0 = true then (c >>> 1) ^^^ 0xA001#16 else c >>> 1)
      (c ^^^ b.setWidth 16)) ∧
  crc16 [] = 0xFFFF#16 ∧ (∀ (s : List Byte) (b : Byte), crc16 (s ++ [b]) = crcStep (crc16 s) b)

/-- 40_crc16.md section 3, "Arithmetic laws", which the spec derives: crc_step is affine over GF(2) in the register
for a fixed byte, and in the byte for a fixed register. -/
def Obligations.CrcStepIsAffine : Prop :=
  (∀ (c c' c'' : Half) (b : Byte), crcStep (c ^^^ c' ^^^ c'') b = crcStep c b ^^^ crcStep c' b ^^^ crcStep c'' b) ∧
  (∀ (c : Half) (b b' b'' : Byte), crcStep c (b ^^^ b' ^^^ b'') = crcStep c b ^^^ crcStep c b' ^^^ crcStep c b'')

/-- 40_crc16.md section 3, "Residue", which the spec derives: a range followed by two bytes leaves 0x0000 exactly when
they are the range's own trailer, 16 iterations of the inner loop are a bijection, and the two ways to verify a frame
agree on every frame. -/
def Obligations.CrcResidueIsZeroExactlyForTheRightTrailer : Prop :=
  (∀ (s : List Byte) (t0 t1 : Byte), crc16 (s ++ [t0, t1]) = 0x0000#16 ↔ trailerOperand t0 t1 = crc16 s) ∧
  (∀ (c : Half) (t0 t1 : Byte), crcFrom c [t0, t1] = crcShifts 16 (c ^^^ trailerOperand t0 t1)) ∧
  Function.Bijective (crcShifts 16) ∧
  (∀ (range : List Byte) (t0 t1 : Byte) (s : State), ∃ t u : State,
    execAll ([Instr.crcInit] ++ feedCrc range ++ [Instr.crcChk (trailerOperand t0 t1)]) s = .next t ∧
    execAll ([Instr.crcInit] ++ feedCrc (range ++ [t0, t1]) ++ [Instr.crcChk 0x0000]) s = .next u ∧
    (t.res = 0x0000#16 ↔ u.res = 0x0000#16))

/-- 40_crc16.md section 3, "Equivalence of commands and function", which the spec derives: whatever other commands
stand between, CRC is the pure function of the bytes fed since CRC_INIT, or since reset. -/
def Obligations.CrcCommandsComputeTheCrcFunction : Prop :=
  ∀ (is : List Instr), (∀ i ∈ is, i ≠ .crcInit) →
    (∀ s : State, ∃ t : State, execAll ([Instr.crcInit] ++ is) s = .next t ∧ t.crc = crc16 (crcFed is)) ∧
    (∀ s : State, ∃ t : State, execAll is s.platformReset = .next t ∧ t.crc = crc16 (crcFed is))

/-! ## The LRC-8 function -/

/-- 41_lrc8.md R68. -/
def Obligations.LrcSumIsTheSumModulo256 : Prop :=
  lrcSum [] = 0x00#8 ∧ (∀ (s : List Byte) (b : Byte), (lrcSum (s ++ [b])).toNat = ((lrcSum s).toNat + b.toNat) % 256) ∧
  (∀ s : List Byte, (lrcSum s).toNat = (s.map BitVec.toNat).sum % 256)

/-- 41_lrc8.md R69. -/
def Obligations.LrcNegIsTheTwosComplement : Prop :=
  (∀ a : Byte, (lrcNeg a).toNat = (256 - a.toNat) % 256 ∧ lrcNeg a = ~~~a + 1) ∧
  lrcNeg 0x00 = 0x00#8 ∧ lrcNeg 0x80 = 0x80#8 ∧
  (∀ a : Byte, a ≠ 0x00#8 → a ≠ 0x80#8 → (lrcNeg a).toNat = 256 - a.toNat)

/-- 41_lrc8.md R70: both orders of the two operations give the same value. -/
def Obligations.LrcIsTheNegatedSum : Prop :=
  (∀ s : List Byte, lrc8 s = lrcNeg (lrcSum s) ∧
    ((lrc8 s).toNat : Int) = (-((s.map BitVec.toNat).sum : Int)) % 256) ∧
  lrc8 [] = 0x00#8

/-- 41_lrc8.md section 3, "Check property", which the spec derives: a range followed by one byte sums to 0 exactly
when it is the range's own trailer, and the two ways to verify a frame agree on every frame. -/
def Obligations.LrcVerifyMethodsAgree : Prop :=
  (∀ (s : List Byte) (b : Byte), lrcSum (s ++ [b]) = b - lrc8 s ∧ (lrcSum (s ++ [b]) = 0x00#8 ↔ b = lrc8 s)) ∧
  (∀ (range : List Byte) (b : Byte) (s : State), ∃ t u : State,
    execAll ([Instr.lrcInit] ++ feedLrc range ++ [Instr.lrcChk b]) s = .next t ∧
    execAll ([Instr.lrcInit] ++ feedLrc (range ++ [b]) ++ [Instr.lrcChk 0x00]) s = .next u ∧
    (t.res = 0x0000#16 ↔ u.res = 0x0000#16))

/-- 41_lrc8.md section 3, "Equivalence of commands and function", which the spec derives: whatever other commands
stand between, LACC is the sum of the bytes fed since LRC_INIT, or since reset, and LRC_RD then gives lrc8. -/
def Obligations.LrcCommandsComputeTheLrcFunction : Prop :=
  ∀ (is : List Instr), (∀ i ∈ is, i ≠ .lrcInit) →
    (∀ s : State, ∃ t u : State, execAll ([Instr.lrcInit] ++ is) s = .next t ∧ t.lacc = lrcSum (lrcFed is) ∧
      exec .lrcRd t = .next u ∧ u.res = zext16 (lrc8 (lrcFed is))) ∧
    (∀ s : State, ∃ t u : State, execAll is s.platformReset = .next t ∧ t.lacc = lrcSum (lrcFed is) ∧
      exec .lrcRd t = .next u ∧ u.res = zext16 (lrc8 (lrcFed is)))

/-- 41_lrc8.md section 3, "Error detection": the three kinds of change the LRC does not see. -/
def Obligations.LrcMissesThreeKindsOfError : Prop :=
  (∀ (s : List Byte) (i j : Nat) (hi : i < s.length) (hj : j < s.length), i ≠ j →
    s[i].getLsbD 7 = s[j].getLsbD 7 →
    lrc8 ((s.set i (s[i] ^^^ 0x80#8)).set j (s[j] ^^^ 0x80#8)) = lrc8 s) ∧
  (∀ s t : List Byte, s.Perm t → lrcSum s = lrcSum t ∧ lrc8 s = lrc8 t) ∧
  (∀ s t : List Byte, lrc8 (s ++ 0x00#8 :: t) = lrc8 (s ++ t))

/-! ## Frames -/

/-- 40_crc16.md R64. -/
def Obligations.GenerateRtuGivesTheTrailer : Prop :=
  ∀ (a : Byte) (pdu : List Byte) (s : State), ∃ t : State,
    generateRtu a pdu = [Instr.crcInit, .crcFeed a] ++ feedCrc pdu ++ [Instr.crcRd] ∧
    execAll (generateRtu a pdu) s = .next t ∧
    t.res = crc16 (a :: pdu) ∧ a :: pdu ++ [lowByte t.res, highByte t.res] = rtuFrame a pdu ∧
    t.lacc = s.lacc ∧ t.readStatus = s.readStatus

/-- 41_lrc8.md R78. -/
def Obligations.GenerateAsciiGivesTheTrailer : Prop :=
  ∀ (a : Byte) (pdu : List Byte) (s : State), ∃ t : State,
    generateAscii a pdu = [Instr.lrcInit, .lrcFeed a] ++ feedLrc pdu ++ [Instr.lrcRd] ∧
    execAll (generateAscii a pdu) s = .next t ∧
    lowByte t.res = lrc8 (a :: pdu) ∧ a :: pdu ++ [lowByte t.res] = asciiFrame a pdu ∧
    t.crc = s.crc ∧ t.readStatus = s.readStatus

/-- 40_crc16.md R65: the procedure judges a frame by its trailer; a frame shorter than 3 bytes is the host's
`TruncatedInput`. -/
def Obligations.VerifyRtuJudgesTheTrailer : Prop :=
  (∀ (range : List Byte) (t0 t1 : Byte) (s : State), range ≠ [] → ∃ t : State,
    verifyRtu (range ++ [t0, t1]) =
      some ([Instr.crcInit] ++ feedCrc range ++ [Instr.crcChk (trailerOperand t0 t1)]) ∧
    judge (verifyRtu (range ++ [t0, t1])) s =
      some (if trailerOperand t0 t1 = crc16 range then .accepted else .checksumMismatch, t) ∧
    (t.res = 0x0001#16 ↔ trailerOperand t0 t1 ≠ crc16 range)) ∧
  (∀ (frame : List Byte) (s : State), frame.length < 3 → judge (verifyRtu frame) s = some (.truncatedInput, s))

/-- 41_lrc8.md R79: the procedure judges a frame by its trailer; a frame shorter than 2 bytes is the host's
`TruncatedInput`. -/
def Obligations.VerifyAsciiJudgesTheTrailer : Prop :=
  (∀ (range : List Byte) (b : Byte) (s : State), range ≠ [] → ∃ t : State,
    verifyAscii (range ++ [b]) = some ([Instr.lrcInit] ++ feedLrc range ++ [Instr.lrcChk b]) ∧
    judge (verifyAscii (range ++ [b])) s =
      some (if b = lrc8 range then .accepted else .checksumMismatch, t) ∧
    (t.res = 0x0001#16 ↔ b ≠ lrc8 range)) ∧
  (∀ (frame : List Byte) (s : State), frame.length < 2 → judge (verifyAscii frame) s = some (.truncatedInput, s))

/-- 40_crc16.md section 3, "Error detection", and 95_test_vectors.md W1: a generated RTU frame is accepted in every
state, and with any one bit of its address, PDU or trailer flipped it is a ChecksumMismatch. How the
host reads RES as a verdict is log entry 14. -/
def Obligations.RtuSingleBitFlipIsDetected : Prop :=
  ∀ (a : Byte) (pdu : List Byte) (s : State),
    (∃ t : State, judge (verifyRtu (rtuFrame a pdu)) s = some (.accepted, t)) ∧
    ∀ (j k : Nat) (hj : j < (rtuFrame a pdu).length), k < 8 →
      ∃ t : State, judge (verifyRtu ((rtuFrame a pdu).set j ((rtuFrame a pdu)[j] ^^^ (1#8 <<< k)))) s =
        some (.checksumMismatch, t) ∧ t.readStatus.getLsbD 0 = true

/-- 41_lrc8.md section 3, "Error detection", and 95_test_vectors.md W1: a generated ASCII frame is accepted in every
state, and with any one bit of its address, PDU or trailer flipped it is a ChecksumMismatch. How the
host reads RES as a verdict is log entry 14. -/
def Obligations.AsciiSingleBitFlipIsDetected : Prop :=
  ∀ (a : Byte) (pdu : List Byte) (s : State),
    (∃ t : State, judge (verifyAscii (asciiFrame a pdu)) s = some (.accepted, t)) ∧
    ∀ (j k : Nat) (hj : j < (asciiFrame a pdu).length), k < 8 →
      ∃ t : State, judge (verifyAscii ((asciiFrame a pdu).set j ((asciiFrame a pdu)[j] ^^^ (1#8 <<< k)))) s =
        some (.checksumMismatch, t) ∧ t.readStatus.getLsbD 1 = true

/-- 70_reset_and_hazards.md section 2: after INIT the result does not depend on what came before it, and without INIT
it is the checksum of the previous range followed by the new one. -/
def Obligations.InitMakesHistoryIrrelevant : Prop :=
  (∀ (is : List Instr) (s s' : State), initsCrcFirst is = true → (∃ i ∈ is, usesCrcUnit i = true) →
    ∃ t t' : State, execAll is s = .next t ∧ execAll is s' = .next t' ∧ t.crc = t'.crc) ∧
  (∀ (is : List Instr) (s s' : State), initsLrcFirst is = true → (∃ i ∈ is, usesLrcUnit i = true) →
    ∃ t t' : State, execAll is s = .next t ∧ execAll is s' = .next t' ∧ t.lacc = t'.lacc) ∧
  (∀ (p q : List Byte) (s : State), ∃ t : State,
    execAll ([Instr.crcInit] ++ feedCrc p ++ [Instr.crcRd] ++ feedCrc q ++ [Instr.crcRd]) s = .next t ∧
    t.res = crc16 (p ++ q)) ∧
  (∀ (p q : List Byte) (s : State), ∃ t : State,
    execAll ([Instr.lrcInit] ++ feedLrc p ++ [Instr.lrcRd] ++ feedLrc q ++ [Instr.lrcRd]) s = .next t ∧
    t.res = zext16 (lrc8 (p ++ q)))

/-- 70_reset_and_hazards.md section 2: a frame may be judged by STATUS when its bit was cleared before the frame. -/
def Obligations.ClearedStatusJudgesTheNextFrame : Prop :=
  (∀ (range : List Byte) (d16 : Half) (s : State), ∃ t : State,
    execAll ([Instr.statClr 0x01] ++ [Instr.crcInit] ++ feedCrc range ++ [Instr.crcChk d16, .statRd]) s = .next t ∧
    (t.res.getLsbD 0 = true ↔ d16 ≠ crc16 range)) ∧
  (∀ (range : List Byte) (d8 : Byte) (s : State), ∃ t : State,
    execAll ([Instr.statClr 0x02] ++ [Instr.lrcInit] ++ feedLrc range ++ [Instr.lrcChk d8, .statRd]) s = .next t ∧
    (t.res.getLsbD 1 = true ↔ d8 ≠ lrc8 range))

/-! ## Several instances -/

/-- 60_exceptions.md section 3 and 10_state.md section 4, in the model's platform (log entry 7): an event changes the
instance it goes to and no other, and what it does there depends on that instance alone. -/
def Obligations.InstancesShareNothing : Prop :=
  ∀ (cfg : Config) (e : Platform.Event cfg) (p q : Platform cfg), Platform.step e p = .next q →
    (∀ v, v ≠ e.target → q.unit v = p.unit v) ∧
    (∀ p' : Platform cfg, p'.unit e.target = p.unit e.target →
      ∃ q', Platform.step e p' = .next q' ∧ q'.unit e.target = q.unit e.target)

/-- 60_exceptions.md section 3 and 70_reset_and_hazards.md section 1, in the model's platform (log entries 7 and 8):
every instance starts at reset, a command event is a step of the instance, and a reset event puts its registers at
their reset values. -/
def Obligations.InstancesStepAndResetOneByOne : Prop :=
  (∀ (cfg : Config) (u : Fin cfg.numUnits), (Platform.start cfg).unit u = State.reset) ∧
  (∀ (cfg : Config) (u : Fin cfg.numUnits) (p : Platform cfg) (t : State), step (p.unit u) = .next t →
    ∃ q, Platform.step (.command u) p = .next q ∧ q.unit u = t) ∧
  (∀ (cfg : Config) (u : Fin cfg.numUnits) (p : Platform cfg), ∃ q, Platform.step (.reset u) p = .next q ∧
    (q.unit u).crc = 0xFFFF#16 ∧ (q.unit u).lacc = 0x00#8 ∧ (q.unit u).res = 0x0000#16 ∧
    (q.unit u).readStatus = 0x00#8)

/-! ## Assembler -/

/-- 30_encoding.md section 5, with the line syntax of log entry 9: every word's disassembly assembles to that word. -/
def Obligations.DisassemblyAssemblesToTheSameWord : Prop :=
  ∀ w : Word, assembleLine (disassemble w) = .ok [w]

/-- 30_encoding.md section 5: the assembler keeps the operand or refuses, and never truncates. That format N takes no
operand is log entry 9's. -/
def Obligations.AssemblerRefusesAndNeverTruncates : Prop :=
  ∀ c : Command,
    (c.wellFormed = true → ∃ i : Instr, assembleCommand c = .ok i ∧ i.mnemonic = c.mnemonic ∧
      i.operand.getD 0 = c.operand.getD 0) ∧
    (c.wellFormed = false → ∃ e : AsmError, assembleCommand c = .error e)

/-- 30_encoding.md R53: the expansions, and what each is for. -/
def Obligations.PseudoInstructionsExpand : Prop :=
  (∀ (bs : List Byte), (Pseudo.crcBytes bs).expand = bs.map Instr.crcFeed ∧
    (Pseudo.lrcBytes bs).expand = bs.map Instr.lrcFeed ∧
    (Pseudo.crcGen bs).expand = [Instr.crcInit] ++ (Pseudo.crcBytes bs).expand ++ [Instr.crcRd] ∧
    (Pseudo.lrcGen bs).expand = [Instr.lrcInit] ++ (Pseudo.lrcBytes bs).expand ++ [Instr.lrcRd]) ∧
  (∀ (t0 t1 : Byte) (bs : List Byte), (Pseudo.crcVer t0 t1 bs).expand =
    [Instr.crcInit] ++ (Pseudo.crcBytes bs).expand ++ [Instr.crcChk (trailerOperand t0 t1)] ∧
    (Pseudo.lrcVer t0 bs).expand = [Instr.lrcInit] ++ (Pseudo.lrcBytes bs).expand ++ [Instr.lrcChk t0]) ∧
  Pseudo.statClrAll.expand = [Instr.statClr 0x07] ∧ (Pseudo.crcBytes []).expand = [] ∧
    (Pseudo.lrcBytes []).expand = [] ∧
  (∀ (bs : List Byte) (s : State), ∃ t : State, execAll (Pseudo.crcBytes bs).expand s = .next t ∧
    t.crc = crcFrom s.crc bs) ∧
  (∀ (bs : List Byte) (s : State), ∃ t : State, execAll (Pseudo.lrcBytes bs).expand s = .next t ∧
    t.lacc = lrcSumFrom s.lacc bs) ∧
  (∀ (bs : List Byte) (s : State), ∃ t : State, execAll (Pseudo.crcGen bs).expand s = .next t ∧ t.res = crc16 bs) ∧
  (∀ (bs : List Byte) (s : State), ∃ t : State, execAll (Pseudo.lrcGen bs).expand s = .next t ∧
    t.res = zext16 (lrc8 bs)) ∧
  (∀ (t0 t1 : Byte) (bs : List Byte) (s : State), ∃ t : State, execAll (Pseudo.crcVer t0 t1 bs).expand s = .next t ∧
    (t.res = 0x0000#16 ↔ [t0, t1] = crcTrailer (crc16 bs))) ∧
  (∀ (b : Byte) (bs : List Byte) (s : State), ∃ t : State, execAll (Pseudo.lrcVer b bs).expand s = .next t ∧
    (t.res = 0x0000#16 ↔ b = lrc8 bs)) ∧
  (∀ s : State, ∃ t : State, execAll Pseudo.statClrAll.expand s = .next t ∧ t.readStatus = 0x00#8)
end

