-- ==== Sys2Proof/Laws/Assembler.lean ====
section
/-! SUPPORT. Reading back the hexadecimal digits the disassembler prints. -/

namespace Sys2Proof.Machine

theorem hexAlphabet_spelled : hexAlphabet = "0123456789ABCDEF".toList := by decide

theorem hexDigitValue_hexDigit (v : Nat) (h : v < 16) : hexDigitValue (hexDigit v) = some v := by
  interval_cases v <;> decide

theorem hexValueFrom_append (acc : Nat) (cs ds : List Char) :
    hexValueFrom acc (cs ++ ds) = (hexValueFrom acc cs).bind fun v => hexValueFrom v ds := by
  induction cs generalizing acc with
  | nil => rfl
  | cons c cs ih => cases h : hexDigitValue c <;> simp [hexValueFrom, h, ih]

theorem hexValueFrom_hexDigits (n acc v : Nat) :
    hexValueFrom acc (hexDigits n v) = some (16 ^ n * acc + v % 16 ^ n) := by
  induction n generalizing v with
  | zero => simp [hexDigits, hexValueFrom, Nat.mod_one]
  | succ n ih =>
    have low : v % 16 < 16 := Nat.mod_lt _ (by decide)
    have split : v % 16 ^ (n + 1) = v % 16 + 16 * (v / 16 % 16 ^ n) := by
      rw [Nat.pow_succ', Nat.mod_mul]
    simp only [hexDigits, hexValueFrom_append, ih, Option.bind_some, hexValueFrom, hexDigitValue_hexDigit _ low, split]
    congr 1
    ring

end Sys2Proof.Machine
end

