-- ==== Sys2Proof/Laws/Checksum.lean ====
section
/-! SUPPORT. How the folds of the two checksum functions come apart. -/

namespace Sys2Proof.Machine

@[simp] theorem crcFrom_nil (c : Half) : crcFrom c [] = c := rfl

@[simp] theorem crcFrom_cons (c : Half) (b : Byte) (s : List Byte) : crcFrom c (b :: s) = crcFrom (crcStep c b) s := rfl

theorem crcFrom_append (c : Half) (s t : List Byte) : crcFrom c (s ++ t) = crcFrom (crcFrom c s) t :=
  List.foldl_append

@[simp] theorem lrcSumFrom_nil (a : Byte) : lrcSumFrom a [] = a := rfl

@[simp] theorem lrcSumFrom_cons (a b : Byte) (s : List Byte) : lrcSumFrom a (b :: s) = lrcSumFrom (a + b) s := rfl

theorem lrcSumFrom_append (a : Byte) (s t : List Byte) : lrcSumFrom a (s ++ t) = lrcSumFrom (lrcSumFrom a s) t :=
  List.foldl_append

/-- The start value only adds to the sum. -/
theorem lrcSumFrom_eq (a : Byte) (s : List Byte) : lrcSumFrom a s = a + lrcSumFrom 0 s := by
  induction s generalizing a with
  | nil => simp
  | cons b s ih => rw [lrcSumFrom_cons, lrcSumFrom_cons, ih (a + b), ih (0 + b),
      show (0 : Byte) + b = b from BitVec.zero_add b, BitVec.add_assoc]

theorem crcShifts_add (m n : Nat) (c : Half) : crcShifts (m + n) c = crcShifts n (crcShifts m c) := by
  induction m generalizing c with
  | zero => rw [Nat.zero_add, crcShifts]
  | succ m ih => rw [Nat.succ_add, crcShifts, crcShifts, ih]

end Sys2Proof.Machine
end

