-- ==== Sys2Proof/Laws/Decode.lean ====
section
/-! SUPPORT. What the fields of the three formats' words are (30_encoding.md R42 to R44). -/

namespace Sys2Proof

/-! ## Format B -/

@[simp] theorem opField_wordB (op d8 : Byte) : opField (wordB op d8) = op := by
  apply BitVec.eq_of_getLsbD_eq
  intro i hi
  simp [opField, wordB, hi, show i < 32 by omega, show i < 16 by omega]

@[simp] theorem rsvField_wordB (op d8 : Byte) : rsvField (wordB op d8) = 0 := by
  apply BitVec.eq_of_getLsbD_eq
  intro i hi
  simp [rsvField, wordB, hi, show 8 + i < 32 by omega, show 8 + i < 16 by omega]

@[simp] theorem d8Field_wordB (op d8 : Byte) : d8Field (wordB op d8) = d8 := by
  apply BitVec.eq_of_getLsbD_eq
  intro i hi
  simp [d8Field, wordB, hi, show 16 + i < 32 by omega, BitVec.getLsbD_of_ge op (16 + i) (by omega)]

@[simp] theorem hi8Field_wordB (op d8 : Byte) : hi8Field (wordB op d8) = 0 := by
  apply BitVec.eq_of_getLsbD_eq
  intro i hi
  simp [hi8Field, wordB, BitVec.getLsbD_of_ge op (24 + i) (by omega),
    BitVec.getLsbD_of_ge d8 (24 + i - 16) (by omega)]

/-! ## Format H -/

@[simp] theorem opField_wordH (op : Byte) (d16 : Half) : opField (wordH op d16) = op := by
  apply BitVec.eq_of_getLsbD_eq
  intro i hi
  simp [opField, wordH, hi, show i < 32 by omega, show i < 16 by omega]

@[simp] theorem rsvField_wordH (op : Byte) (d16 : Half) : rsvField (wordH op d16) = 0 := by
  apply BitVec.eq_of_getLsbD_eq
  intro i hi
  simp [rsvField, wordH, hi, show 8 + i < 32 by omega, show 8 + i < 16 by omega]

@[simp] theorem d16Field_wordH (op : Byte) (d16 : Half) : d16Field (wordH op d16) = d16 := by
  apply BitVec.eq_of_getLsbD_eq
  intro i hi
  simp [d16Field, wordH, hi, show 16 + i < 32 by omega, BitVec.getLsbD_of_ge op (16 + i) (by omega)]

/-! ## The words under their masks -/

/-- Masking a format-B word leaves its op (30_encoding.md R43). -/
theorem wordB_and_mask (op d8 : Byte) : wordB op d8 &&& Format.b.mask = op.setWidth 32 := by
  apply BitVec.eq_of_getLsbD_eq
  intro i hi
  simp [wordB, Format.mask]
  interval_cases i <;> simp

/-- Masking a format-H word leaves its op (30_encoding.md R44). -/
theorem wordH_and_mask (op : Byte) (d16 : Half) : wordH op d16 &&& Format.h.mask = op.setWidth 32 := by
  apply BitVec.eq_of_getLsbD_eq
  intro i hi
  simp [wordH, Format.mask]
  interval_cases i <;> simp

/-! ## The shared parts of the decoder -/

theorem decodeN_eq_ok (w : Word) (i j : Instr) : decodeN w i = .ok j ↔ upperField w = 0 ∧ i = j := by
  unfold decodeN
  split <;> simp_all

theorem decodeB_eq_ok (w : Word) (f : Byte → Instr) (j : Instr) :
    decodeB w f = .ok j ↔ (hi8Field w = 0 ∧ rsvField w = 0) ∧ f (d8Field w) = j := by
  unfold decodeB
  split <;> simp_all

theorem decodeH_eq_ok (w : Word) (f : Half → Instr) (j : Instr) :
    decodeH w f = .ok j ↔ rsvField w = 0 ∧ f (d16Field w) = j := by
  unfold decodeH
  split <;> simp_all

end Sys2Proof
end

