-- ==== Sys2Proof/Laws/State.lean ====
section
/-! SUPPORT. One lemma per field per update of State, so that no proof unfolds a record update. -/

namespace Sys2Proof.Machine

variable (s : State)

/-! ## writeCrc -/

@[simp] theorem State.writeCrc_crc (v : Half) : (s.writeCrc v).crc = v := rfl
@[simp] theorem State.writeCrc_lacc (v : Half) : (s.writeCrc v).lacc = s.lacc := rfl
@[simp] theorem State.writeCrc_res (v : Half) : (s.writeCrc v).res = s.res := rfl
@[simp] theorem State.writeCrc_status (v : Half) : (s.writeCrc v).status = s.status := rfl
@[simp] theorem State.writeCrc_prog (v : Half) : (s.writeCrc v).prog = s.prog := rfl
@[simp] theorem State.writeCrc_index (v : Half) : (s.writeCrc v).index = s.index := rfl

/-! ## writeLacc -/

@[simp] theorem State.writeLacc_crc (v : Byte) : (s.writeLacc v).crc = s.crc := rfl
@[simp] theorem State.writeLacc_lacc (v : Byte) : (s.writeLacc v).lacc = v := rfl
@[simp] theorem State.writeLacc_res (v : Byte) : (s.writeLacc v).res = s.res := rfl
@[simp] theorem State.writeLacc_status (v : Byte) : (s.writeLacc v).status = s.status := rfl
@[simp] theorem State.writeLacc_prog (v : Byte) : (s.writeLacc v).prog = s.prog := rfl
@[simp] theorem State.writeLacc_index (v : Byte) : (s.writeLacc v).index = s.index := rfl

/-! ## writeRes -/

@[simp] theorem State.writeRes_crc (v : Half) : (s.writeRes v).crc = s.crc := rfl
@[simp] theorem State.writeRes_lacc (v : Half) : (s.writeRes v).lacc = s.lacc := rfl
@[simp] theorem State.writeRes_res (v : Half) : (s.writeRes v).res = v := rfl
@[simp] theorem State.writeRes_status (v : Half) : (s.writeRes v).status = s.status := rfl
@[simp] theorem State.writeRes_prog (v : Half) : (s.writeRes v).prog = s.prog := rfl
@[simp] theorem State.writeRes_index (v : Half) : (s.writeRes v).index = s.index := rfl

/-! ## writeStatus -/

@[simp] theorem State.writeStatus_crc (v : Byte) : (s.writeStatus v).crc = s.crc := rfl
@[simp] theorem State.writeStatus_lacc (v : Byte) : (s.writeStatus v).lacc = s.lacc := rfl
@[simp] theorem State.writeStatus_res (v : Byte) : (s.writeStatus v).res = s.res := rfl
@[simp] theorem State.writeStatus_status (v : Byte) : (s.writeStatus v).status = v &&& statusMask := rfl
@[simp] theorem State.writeStatus_prog (v : Byte) : (s.writeStatus v).prog = s.prog := rfl
@[simp] theorem State.writeStatus_index (v : Byte) : (s.writeStatus v).index = s.index := rfl

/-! ## raise and acknowledge: STATUS alone changes -/

@[simp] theorem State.raise_crc (c : Condition) : (s.raise c).crc = s.crc := rfl
@[simp] theorem State.raise_lacc (c : Condition) : (s.raise c).lacc = s.lacc := rfl
@[simp] theorem State.raise_res (c : Condition) : (s.raise c).res = s.res := rfl
@[simp] theorem State.raise_prog (c : Condition) : (s.raise c).prog = s.prog := rfl
@[simp] theorem State.raise_index (c : Condition) : (s.raise c).index = s.index := rfl

@[simp] theorem State.acknowledge_crc (m : Byte) : (s.acknowledge m).crc = s.crc := rfl
@[simp] theorem State.acknowledge_lacc (m : Byte) : (s.acknowledge m).lacc = s.lacc := rfl
@[simp] theorem State.acknowledge_res (m : Byte) : (s.acknowledge m).res = s.res := rfl
@[simp] theorem State.acknowledge_prog (m : Byte) : (s.acknowledge m).prog = s.prog := rfl
@[simp] theorem State.acknowledge_index (m : Byte) : (s.acknowledge m).index = s.index := rfl

/-! ## advance and load: the host's program alone changes -/

@[simp] theorem State.advance_crc : s.advance.crc = s.crc := rfl
@[simp] theorem State.advance_lacc : s.advance.lacc = s.lacc := rfl
@[simp] theorem State.advance_res : s.advance.res = s.res := rfl
@[simp] theorem State.advance_status : s.advance.status = s.status := rfl
@[simp] theorem State.advance_prog : s.advance.prog = s.prog := rfl
@[simp] theorem State.advance_index : s.advance.index = s.index + 1 := rfl

@[simp] theorem State.load_crc (p : List Word) : (s.load p).crc = s.crc := rfl
@[simp] theorem State.load_lacc (p : List Word) : (s.load p).lacc = s.lacc := rfl
@[simp] theorem State.load_res (p : List Word) : (s.load p).res = s.res := rfl
@[simp] theorem State.load_status (p : List Word) : (s.load p).status = s.status := rfl
@[simp] theorem State.load_prog (p : List Word) : (s.load p).prog = p := rfl
@[simp] theorem State.load_index (p : List Word) : (s.load p).index = 0 := rfl

/-! ## platformReset: the registers alone change -/

@[simp] theorem State.platformReset_crc : s.platformReset.crc = 0xFFFF := rfl
@[simp] theorem State.platformReset_lacc : s.platformReset.lacc = 0x00 := rfl
@[simp] theorem State.platformReset_res : s.platformReset.res = 0x0000 := rfl
@[simp] theorem State.platformReset_status : s.platformReset.status = 0x00 := rfl
@[simp] theorem State.platformReset_prog : s.platformReset.prog = s.prog := rfl
@[simp] theorem State.platformReset_index : s.platformReset.index = s.index := rfl

/-! ## withFetchWord: the program alone changes -/

@[simp] theorem State.withFetchWord_crc (n w : Nat) : (s.withFetchWord n w).crc = s.crc := rfl
@[simp] theorem State.withFetchWord_lacc (n w : Nat) : (s.withFetchWord n w).lacc = s.lacc := rfl
@[simp] theorem State.withFetchWord_res (n w : Nat) : (s.withFetchWord n w).res = s.res := rfl
@[simp] theorem State.withFetchWord_status (n w : Nat) : (s.withFetchWord n w).status = s.status := rfl
@[simp] theorem State.withFetchWord_prog (n w : Nat) :
    (s.withFetchWord n w).prog = placeWord s.prog s.index (portWord n w) := rfl
@[simp] theorem State.withFetchWord_index (n w : Nat) : (s.withFetchWord n w).index = s.index := rfl

end Sys2Proof.Machine
end

