-- ==== Sys2Proof/Laws/Ops.lean ====
section
/-! SUPPORT. What each shared operation can do, said once. -/

namespace Sys2Proof.Machine

variable (s : State)

/-! ## STATUS -/

theorem readStatus_bit (i : Nat) : s.readStatus.getLsbD i = (s.status.getLsbD i && decide (i < 3)) := by
  have h : statusMask.getLsbD i = decide (i < 3) := by
    by_cases hi : i < 8
    · interval_cases i <;> rfl
    · rw [BitVec.getLsbD_of_ge _ _ (by omega)]
      simp
      omega
  rw [State.readStatus, BitVec.getLsbD_and, h]

@[simp] theorem readStatus_writeStatus (v : Byte) : (s.writeStatus v).readStatus = v &&& statusMask := by
  rw [State.readStatus, State.writeStatus_status, BitVec.and_assoc, BitVec.and_self]

/-- Raising a condition sets its bit of STATUS and leaves the others (60_exceptions.md R94). -/
theorem readStatus_raise (c : Condition) : (s.raise c).readStatus = statusRaise s.readStatus c := by
  have h : ∀ v : Byte, statusRaise (v &&& statusMask) c &&& statusMask = statusRaise (v &&& statusMask) c := by
    cases c <;> decide
  rw [State.raise, readStatus_writeStatus]
  exact h s.status

/-- Acknowledging clears the bits of STATUS a mask selects and leaves the others (42_control.md R83). -/
theorem readStatus_acknowledge (m : Byte) : (s.acknowledge m).readStatus = statusClear s.readStatus m := by
  rw [State.acknowledge, readStatus_writeStatus, statusClear, BitVec.and_assoc, BitVec.and_self]

/-- Where bits 7 to 3 hold 0, STATUS reads as it is held. -/
theorem readStatus_of_reserved_zero (h : s.status &&& 0xF8#8 = 0#8) : s.readStatus = s.status := by
  have hb : ∀ v : Byte, v &&& 0xF8#8 = 0#8 → v &&& statusMask = v := by decide
  exact hb s.status h

/-- Every write of STATUS leaves bits 7 to 3 at 0 (10_state.md R19). -/
theorem writeStatus_reserved_zero (v : Byte) : (s.writeStatus v).status &&& 0xF8#8 = 0#8 := by
  rw [State.writeStatus_status, BitVec.and_assoc, show statusMask &&& 0xF8#8 = 0#8 from rfl, BitVec.and_zero]

/-! ## check -/

/-- A check that agrees writes RES alone. -/
theorem check_true (c : Condition) : s.check true c = s.writeRes 0x0000 := rfl

/-- A check that disagrees writes RES and raises its condition. -/
theorem check_false (c : Condition) : s.check false c = (s.writeRes 0x0001).raise c := rfl

/-! ## The command port -/

/-- A word put at place `k` is the word at place `k`. -/
theorem placeWord_get (p : List Word) (k : Nat) (w : Word) : (placeWord p k w)[k]? = some w := by
  have hlen : (p.take k ++ List.replicate (k - p.length) 0x00000000#32).length = k := by
    simp
    omega
  rw [placeWord, List.getElem?_append_right (by omega), hlen]
  simp

/-- Placing a word leaves the words before it. -/
theorem placeWord_get_before (p : List Word) (k j : Nat) (w : Word) (hj : j < k) (hp : j < p.length) :
    (placeWord p k w)[j]? = p[j]? := by
  rw [placeWord, List.append_assoc, List.getElem?_append_left (by simp; omega)]
  simp [hj]

/-- The word `withFetchWord` places is the word the next step takes. -/
theorem fetch_withFetchWord (n w : Nat) : (s.withFetchWord n w).fetch = some (portWord n w) := by
  rw [State.fetch, State.withFetchWord_prog, State.withFetchWord_index, placeWord_get]

/-- There is a next word exactly where the index is inside the program. -/
theorem fetch_eq_none_iff : s.fetch = none ↔ s.prog.length ≤ s.index := List.getElem?_eq_none_iff

end Sys2Proof.Machine
end

