-- ==== Sys2Proof/Laws/PerInstr.lean ====
section
/-! SUPPORT. Statements for all commands, one lemma per constructor of Instr. -/

/-- The word of a command belongs to the command's own row of the opcode table (30_encoding.md R48). -/
def Sys2Proof.Laws.EncodeRow.Statement (i : Sys2Proof.Instr) : Prop :=
  i.mnemonic.matchesWord (Sys2Proof.encode i) = true

/-- The source form of a command is well formed and assembles to the command (30_encoding.md R52). -/
def Sys2Proof.Laws.SourceForm.Statement (i : Sys2Proof.Instr) : Prop :=
  i.command.wellFormed = true ∧ Sys2Proof.Machine.assembleCommand i.command = .ok i

namespace Sys2Proof.Laws

theorem EncodeRow.matchesWord_b (m : Mnemonic) (h : m.format = .b) (d8 : Byte) :
    m.matchesWord (wordB m.opcode d8) = true := by
  simp [Mnemonic.matchesWord, h, wordB_and_mask, Mnemonic.pattern]

theorem EncodeRow.nop : Statement .nop := rfl
theorem EncodeRow.crcInit : Statement .crcInit := rfl
theorem EncodeRow.crcFeed (d8 : Byte) : Statement (.crcFeed d8) := matchesWord_b .crcFeed rfl d8
theorem EncodeRow.crcRd : Statement .crcRd := rfl
theorem EncodeRow.crcChk (d16 : Half) : Statement (.crcChk d16) := by
  simp only [Statement, Instr.mnemonic, Mnemonic.matchesWord, Mnemonic.format, encode, wordH_and_mask]
  decide
theorem EncodeRow.lrcInit : Statement .lrcInit := rfl
theorem EncodeRow.lrcFeed (d8 : Byte) : Statement (.lrcFeed d8) := matchesWord_b .lrcFeed rfl d8
theorem EncodeRow.lrcRd : Statement .lrcRd := rfl
theorem EncodeRow.lrcChk (d8 : Byte) : Statement (.lrcChk d8) := matchesWord_b .lrcChk rfl d8
theorem EncodeRow.statRd : Statement .statRd := rfl
theorem EncodeRow.statClr (d8 : Byte) : Statement (.statClr d8) := matchesWord_b .statClr rfl d8

theorem SourceForm.of_operand (i : Instr) (h : i.command.wellFormed = true)
    (hi : Machine.instrOf i.mnemonic (i.operand.getD 0) = i) : Statement i := by
  refine ⟨h, ?_⟩
  rw [Machine.assembleCommand, if_pos h]
  exact congrArg Except.ok hi

theorem SourceForm.byte_le (d8 : Byte) : d8.toNat ≤ 0xFF := by
  have := d8.isLt
  omega

theorem SourceForm.ofNat_toNat_self (n : Nat) (v : BitVec n) : BitVec.ofNat n v.toNat = v := by simp

theorem SourceForm.nop : Statement .nop := of_operand _ rfl rfl
theorem SourceForm.crcInit : Statement .crcInit := of_operand _ rfl rfl
theorem SourceForm.crcFeed (d8 : Byte) : Statement (.crcFeed d8) :=
  of_operand _ (decide_eq_true (byte_le d8)) (congrArg Instr.crcFeed (ofNat_toNat_self 8 d8))
theorem SourceForm.crcRd : Statement .crcRd := of_operand _ rfl rfl
theorem SourceForm.crcChk (d16 : Half) : Statement (.crcChk d16) :=
  of_operand _ (decide_eq_true (show d16.toNat ≤ 0xFFFF by have := d16.isLt; omega))
    (congrArg Instr.crcChk (ofNat_toNat_self 16 d16))
theorem SourceForm.lrcInit : Statement .lrcInit := of_operand _ rfl rfl
theorem SourceForm.lrcFeed (d8 : Byte) : Statement (.lrcFeed d8) :=
  of_operand _ (decide_eq_true (byte_le d8)) (congrArg Instr.lrcFeed (ofNat_toNat_self 8 d8))
theorem SourceForm.lrcRd : Statement .lrcRd := of_operand _ rfl rfl
theorem SourceForm.lrcChk (d8 : Byte) : Statement (.lrcChk d8) :=
  of_operand _ (decide_eq_true (byte_le d8)) (congrArg Instr.lrcChk (ofNat_toNat_self 8 d8))
theorem SourceForm.statRd : Statement .statRd := of_operand _ rfl rfl
theorem SourceForm.statClr (d8 : Byte) : Statement (.statClr d8) :=
  of_operand _ (decide_eq_true (byte_le d8)) (congrArg Instr.statClr (ofNat_toNat_self 8 d8))

end Sys2Proof.Laws
end

