-- ==== Sys2Proof/Laws/Step.lean ====
section
/-! SUPPORT. What performing a word, a step and a sequence can do, said once. -/

namespace Sys2Proof.Machine

/-- A word is performed as the command it decodes to, or as an illegal word (10_state.md R13). -/
theorem perform_cases (w : Word) (s : State) :
    (∃ i, decode w = .ok i ∧ perform w s = exec i s) ∨
      (∃ e, decode w = .error e ∧ perform w s = .next (s.raise .ill)) := by
  unfold perform
  split
  · exact .inl ⟨_, ‹_›, rfl⟩
  · exact .inr ⟨_, ‹_›, rfl⟩

theorem perform_ok {w : Word} {i : Instr} (h : decode w = .ok i) (s : State) : perform w s = exec i s := by
  rw [perform, h]

theorem perform_error {w : Word} {e : Illegal} (h : decode w = .error e) (s : State) :
    perform w s = .next (s.raise .ill) := by
  rw [perform, h, execIllegal]

/-- A step performs the next word after the index has moved on, or the run has ended (42_control.md R87, R88). -/
theorem step_cases (s : State) :
    (∃ w, s.fetch = some w ∧ step s = perform w s.advance) ∨ (s.fetch = none ∧ step s = .fault .endOfRun) := by
  unfold step
  split
  · exact .inl ⟨_, ‹_›, rfl⟩
  · exact .inr ⟨‹_›, rfl⟩

@[simp] theorem andThen_next (s : State) (f : State → Host.Outcome State Fault Refusal) :
    andThen (.next s) f = f s := rfl

@[simp] theorem performAll_nil (s : State) : performAll [] s = .next s := rfl

@[simp] theorem execAll_nil (s : State) : execAll [] s = .next s := rfl

theorem performAll_cons (w : Word) (ws : List Word) (s : State) :
    performAll (w :: ws) s = andThen (perform w s) (performAll ws) := rfl

theorem execAll_cons (i : Instr) (is : List Instr) (s : State) :
    execAll (i :: is) s = andThen (exec i s) (execAll is) := rfl

/-- A list of commands is performed by performing its first part and then the rest. -/
theorem execAll_append (is js : List Instr) (s : State) :
    execAll (is ++ js) s = andThen (execAll is s) (execAll js) := by
  induction is generalizing s with
  | nil => rfl
  | cons i is ih =>
    rw [List.cons_append, execAll_cons, execAll_cons]
    cases exec i s with
    | next t => exact ih t
    | fault r => rfl
    | refused r => rfl

/-! ## Platform -/

@[simp] theorem Platform.setUnit_self {cfg : Config} (p : Platform cfg) (u : Fin cfg.numUnits) (s : State) :
    (p.setUnit u s).unit u = s := by
  simp [Platform.setUnit, Platform.unit]

theorem Platform.setUnit_other {cfg : Config} (p : Platform cfg) (u v : Fin cfg.numUnits) (s : State) (h : u ≠ v) :
    (p.setUnit u s).unit v = p.unit v := by
  have : u.val ≠ v.val := fun e => h (Fin.ext e)
  simp [Platform.setUnit, Platform.unit, this]

@[simp] theorem Platform.start_unit (cfg : Config) (u : Fin cfg.numUnits) : (Platform.start cfg).unit u = State.reset := by
  simp [Platform.start, Platform.unit]

end Sys2Proof.Machine
end

