-- ==== Sys2Proof/Tests/Slice0.lean ====
section
/-! SUPPORT. The model's own tests. Expected values come from spec/95_test_vectors.md (V<n>) or from the rule named.
The witnesses show, for each statement with hypotheses, values that meet all of them together. -/

namespace Sys2Proof.Tests

open Sys2Proof.Machine

/-- A state by its registers, in the order of 95_test_vectors.md section 6: CRC LACC STATUS RES. -/
def st (crc : Half) (lacc status : Byte) (res : Half) : State := ⟨crc, lacc, res, status, [], 0⟩

/-- A state whose next word is `w`. -/
def at_ (w : Word) : State := State.reset.load [w]

/-! ## Well-formedness (R52) -/

theorem test_wf_refuses_large_byte : (Command.mk .crcFeed (some 0x100)).wellFormed = false := by decide
theorem test_wf_refuses_large_half : (Command.mk .crcChk (some 0x10000)).wellFormed = false := by decide
theorem test_wf_refuses_operand_of_n : (Command.mk .crcInit (some 0)).wellFormed = false := by decide
theorem test_wf_accepts_limits :
    (Command.mk .statClr (some 0xFF)).wellFormed = true ∧ (Command.mk .crcChk (some 0xFFFF)).wellFormed = true ∧
      (Command.mk .lrcFeed none).wellFormed = true := by decide

/-! ## Decoding: one written word per row of R46, and the words of V43 -/

theorem test_decode_nop : decode 0b00000000000000000000000000000000#32 = .ok .nop := by decide
theorem test_decode_crcInit : decode 0b00000000000000000000000000000001#32 = .ok .crcInit := by decide
theorem test_decode_crcFeed : decode 0b00000000111111110000000000000010#32 = .ok (.crcFeed 0xFF) := by decide
theorem test_decode_crcRd : decode 0b00000000000000000000000000000011#32 = .ok .crcRd := by decide
theorem test_decode_crcChk : decode 0b10101011110011010000000000000100#32 = .ok (.crcChk 0xABCD) := by decide
theorem test_decode_lrcInit : decode 0b00000000000000000000000000010001#32 = .ok .lrcInit := by decide
theorem test_decode_lrcFeed : decode 0b00000000100000000000000000010010#32 = .ok (.lrcFeed 0x80) := by decide
theorem test_decode_lrcRd : decode 0b00000000000000000000000000010011#32 = .ok .lrcRd := by decide
theorem test_decode_lrcChk : decode 0b00000000111100100000000000010100#32 = .ok (.lrcChk 0xF2) := by decide
theorem test_decode_statRd : decode 0b00000000000000000000000000100000#32 = .ok .statRd := by decide
theorem test_decode_statClr : decode 0b00000000000000010000000000100001#32 = .ok (.statClr 0x01) := by decide
theorem test_decode_reserved_bits :
    decode 0x00000100#32 = .error .reservedBits ∧ decode 0x01000002#32 = .error .reservedBits ∧
      decode 0x00010001#32 = .error .reservedBits ∧ decode 0x80000021#32 = .error .reservedBits ∧
      decode 0x000A0102#32 = .error .reservedBits := by decide
theorem test_decode_reserved_opcodes :
    decode 0x00000005#32 = .error .reservedOpcode ∧ decode 0xFFFFFFFF#32 = .error .reservedOpcode ∧
      decode 0x00000022#32 = .error .reservedOpcode ∧ decode 0x00000030#32 = .error .reservedOpcode := by decide
theorem test_encode_operands :
    encode (.crcFeed 0x03) = 0x00030002#32 ∧ encode (.crcChk 0xCDC5) = 0xCDC50004#32 ∧ encode .crcInit = 0x00000001#32 := by
  decide
theorem test_decodeTableWord :
    decodeTableWord 32 0xCDC50004 = some (.crcChk 0xCDC5) ∧ decodeTableWord 32 0x00000005 = none ∧
      decodeTableWord 40 0x00000001 = none := by decide

/-! ## One command (V50 to V85) -/

theorem test_nop_V51 : nextState? (exec .nop (st 0x1234 0x56 0x07 0xBEEF)) = some (st 0x1234 0x56 0x07 0xBEEF) := by decide
theorem test_crcInit_V52 :
    nextState? (exec .crcInit (st 0xCDC5 0x0E 0x01 0x0001)) = some (st 0xFFFF 0x0E 0x01 0x0001) := by decide
theorem test_crcFeed_V54 : nextState? (exec (.crcFeed 0xFF) (st 0xFFFF 0 0 0)) = some (st 0x00FF 0 0 0) := by
  decide +kernel
theorem test_crcFeed_V56 : nextState? (exec (.crcFeed 0xC5) (st 0xCDC5 0 0 0)) = some (st 0x00CD 0 0 0) := by
  decide +kernel
theorem test_crcRd_V58 :
    nextState? (exec .crcRd (st 0xCDC5 0x0E 0x02 0x0001)) = some (st 0xCDC5 0x0E 0x02 0xCDC5) := by decide
theorem test_crcChk_V61_swapped : nextState? (exec (.crcChk 0xC5CD) (st 0xCDC5 0 0 0)) = some (st 0xCDC5 0 0x01 0x0001) := by
  decide
theorem test_crcChk_V62_match_keeps_crcm :
    nextState? (exec (.crcChk 0xCDC5) (st 0xCDC5 0 0x01 0x0001)) = some (st 0xCDC5 0 0x01 0x0000) := by decide
theorem test_lrcInit_V67 :
    nextState? (exec .lrcInit (st 0xCDC5 0x0E 0x02 0x00F2)) = some (st 0xCDC5 0x00 0x02 0x00F2) := by decide
theorem test_lrcFeed_V69_wraps : nextState? (exec (.lrcFeed 0x01) (st 0xFFFF 0xFF 0 0)) = some (st 0xFFFF 0x00 0 0) := by
  decide
theorem test_lrcRd_V72 : nextState? (exec .lrcRd (st 0xFFFF 0x80 0 0)) = some (st 0xFFFF 0x80 0 0x0080) := by decide
theorem test_lrcRd_V73 : nextState? (exec .lrcRd (st 0xFFFF 0x01 0 0)) = some (st 0xFFFF 0x01 0 0x00FF) := by decide
theorem test_lrcChk_V74 : nextState? (exec (.lrcChk 0xF2) (st 0xFFFF 0x0E 0 0x5555)) = some (st 0xFFFF 0x0E 0 0x0000) := by
  decide
theorem test_lrcChk_V75_sum_is_mismatch :
    nextState? (exec (.lrcChk 0x0E) (st 0xFFFF 0x0E 0 0)) = some (st 0xFFFF 0x0E 0x02 0x0001) := by decide
theorem test_statRd_V78 : nextState? (exec .statRd (st 0xFFFF 0 0x05 0)) = some (st 0xFFFF 0 0x05 0x0005) := by decide
theorem test_statClr_V79 :
    nextState? (exec (.statClr 0x01) (st 0xFFFF 0 0x07 0x0007)) = some (st 0xFFFF 0 0x06 0x0007) := by decide
theorem test_statClr_V80_high_mask_bits :
    nextState? (exec (.statClr 0xF8) (st 0xFFFF 0 0x07 0)) = some (st 0xFFFF 0 0x07 0) := by decide
theorem test_illegal_V83 :
    nextState? (perform 0x000A0102 (st 0xCDC5 0x0E 0 0x00F2)) = some (st 0xCDC5 0x0E 0x04 0x00F2) := by decide
theorem test_illegal_V84_already_set :
    nextState? (perform 0x00000030 (st 0xCDC5 0x0E 0x04 0x00F2)) = some (st 0xCDC5 0x0E 0x04 0x00F2) := by decide

/-! ## Steps, reset, functions, assembler -/

theorem test_step_after_reset :
    (nextState? (step (State.reset.withFetchWord 32 0x00000003))).map (fun t => (t.res, t.index)) = some (0xFFFF#16, 1) := by
  decide
theorem test_step_ends_at_reset : fault? (step State.reset) = some .endOfRun := by decide
theorem test_withFetchWord_past_the_end :
    ((State.mk 0 0 0 0 [1#32] 3).withFetchWord 32 0x20).fetch = some 0x20#32 := by decide
theorem test_platformReset_keeps_program :
    ((at_ 0x20#32).advance.writeCrc 0x1234).platformReset = (at_ 0x20#32).advance := by decide
theorem test_crc16_V8 : crc16 [0x31, 0x32, 0x33, 0x34, 0x35, 0x36, 0x37, 0x38, 0x39] = 0x4B37#16 := by decide +kernel
theorem test_crc16_M5 :
    crc16 [0x01, 0x03, 0x00, 0x00, 0x00, 0x0A] = 0xCDC5#16 ∧ crc16 [0x11, 0x03, 0x00, 0x6B, 0x00, 0x03] = 0x8776#16 := by
  decide +kernel
theorem test_crc16_V13_V14_see_order : crc16 [0x01, 0x02] = 0xE181#16 ∧ crc16 [0x02, 0x01] = 0x10C1#16 := by
  decide +kernel
theorem test_lrc8_V6 : lrc8 [0x11, 0x03, 0x00, 0x6B, 0x00, 0x03] = 0x7E#8 := by decide
theorem test_rtuFrame_V20 :
    rtuFrame 0x01 [0x04, 0x00, 0x03, 0x00, 0x01] = [0x01, 0x04, 0x00, 0x03, 0x00, 0x01, 0xC1, 0xCA] := by decide +kernel
theorem test_assemble_R52 : assembleLine "CRC_CHK 0xCDC5" = .ok [0xCDC50004#32] := by decide +kernel
theorem test_assemble_comment_and_default : assembleLine " LRC_FEED ; next" = .ok [0x00000012#32] := by decide +kernel
theorem test_assemble_lower_case_digits :
    assembleLine "CRC_FEED 0xaF" = .ok [0x00AF0002#32] ∧ assembleLine "CRC_FEED 0x0G" = .error .badOperand := by
  decide +kernel
theorem test_assemble_refuses : assembleLine "CRC_FEED 0x100" = .error .operandTooLarge := by decide +kernel
theorem test_assemble_pseudo_R53 :
    assembleLine "LRC_VER F2 : 01 0A" = .ok [0x00000011#32, 0x00010012#32, 0x000A0012#32, 0x00F20014#32] := by
  decide +kernel
theorem test_disassemble_R54 :
    disassemble 0x000A0002 = "CRC_FEED 0x0A" ∧ disassemble 0xCDC50004 = "CRC_CHK 0xCDC5" ∧
      disassemble 0x01000002 = ".word 0x01000002" := by decide +kernel
theorem test_checksum_by_driver_R32 :
    DriverType.rtu.checksum = some .crc16 ∧ DriverType.ascii.checksum = some .lrc8 ∧ DriverType.tcp.checksum = none := by
  decide

/-! ## Witnesses of the statements' hypotheses -/

theorem witness_reserved_bits_N :
    (opField 0x00000100#32 = 0x00#8 ∧ upperField 0x00000100#32 ≠ 0) ∧
    (opField 0x80000001#32 = 0x01#8 ∧ upperField 0x80000001#32 ≠ 0) ∧
    (opField 0x00000111#32 = 0x11#8 ∧ upperField 0x00000111#32 ≠ 0) := by decide

theorem witness_reserved_bits_B :
    (opField 0x01000002#32 = 0x02#8 ∧ hi8Field 0x01000002#32 ≠ 0) ∧
    (opField 0x00008002#32 = 0x02#8 ∧ rsvField 0x00008002#32 ≠ 0) ∧
    (opField 0x80000012#32 = 0x12#8 ∧ hi8Field 0x80000012#32 ≠ 0) ∧
    (opField 0x00000112#32 = 0x12#8 ∧ rsvField 0x00000112#32 ≠ 0) ∧
    (opField 0x80000021#32 = 0x21#8 ∧ hi8Field 0x80000021#32 ≠ 0) ∧
    (opField 0x00000121#32 = 0x21#8 ∧ rsvField 0x00000121#32 ≠ 0) := by decide

theorem witness_CrcInitLoadsInit : State.reset.crc = 0xFFFF#16 := by decide

theorem witness_CrcChkComparesTrailer :
    (0xCDC5#16 = (st 0xCDC5 0 0 0).crc) ∧ (0xCDC4#16 ≠ (st 0xCDC5 0 0 0).crc) := by decide

theorem witness_LrcChkComparesTrailer :
    (0xF2#8 = lrcNeg (st 0 0x0E 0 0).lacc) ∧ (0xF3#8 ≠ lrcNeg (st 0 0x0E 0 0).lacc) := by decide

theorem witness_illegal_words : legal 0x00000005#32 = false ∧ legal 0x01000002#32 = false := by decide

theorem witness_DecodeAgreesWithOpcodeTable :
    0x00FF0002#32 &&& Mnemonic.crcFeed.format.mask = Mnemonic.crcFeed.pattern := by decide

theorem witness_LegalWordsAreCounted :
    (0x05 ≤ (opField 0x05#32).toNat ∧ (opField 0x05#32).toNat ≤ 0x10) ∧
    (0x05 ≤ (opField 0x10#32).toNat ∧ (opField 0x10#32).toNat ≤ 0x10) ∧
    (0x15 ≤ (opField 0x15#32).toNat ∧ (opField 0x15#32).toNat ≤ 0x1F) ∧
    (0x15 ≤ (opField 0x1F#32).toNat ∧ (opField 0x1F#32).toNat ≤ 0x1F) ∧
    0x22 ≤ (opField 0x22#32).toNat ∧ 0x22 ≤ (opField 0xFF#32).toNat := by decide

theorem witness_OperandsAreTakenUnchanged :
    decode 0x00FF0002#32 = .ok (.crcFeed 0xFF) ∧ decode 0x00800012#32 = .ok (.lrcFeed 0x80) ∧
      decode 0x00000014#32 = .ok (.lrcChk 0x00) ∧ decode 0x00070021#32 = .ok (.statClr 0x07) ∧
      decode 0xFFFF0004#32 = .ok (.crcChk 0xFFFF) := by decide

theorem witness_EncodeDecodeRoundTrip :
    decode 0x00000000#32 = .ok .nop ∧ decode 0xFFFF0004#32 = .ok (.crcChk 0xFFFF) ∧
      decode 0x00FF0021#32 = .ok (.statClr 0xFF) := by decide

theorem witness_StepPerformsTheDecodedWord :
    ((at_ 0x20#32).prog[(at_ 0x20#32).index]? = some 0x20#32 ∧ decode 0x20#32 = .ok .statRd) ∧
    ((at_ 0x05#32).prog[(at_ 0x05#32).index]? = some 0x05#32 ∧ decode 0x05#32 = .error .reservedOpcode) := by decide

theorem witness_StepStopsOnlyAtTheEndOfTheProgram :
    (at_ 0x20#32).index < (at_ 0x20#32).prog.length ∧
      (at_ 0x20#32).advance.prog.length ≤ (at_ 0x20#32).advance.index := by decide

theorem witness_IllShows_no_illegal_word :
    State.reset.readStatus.getLsbD 2 = false ∧ KeepsIll [0x00000001#32] ∧
      ∃ t, performAll [0x00000001#32] State.reset = .next t := by
  refine ⟨by decide, ?_, ⟨_, rfl⟩⟩
  intro w hw i hi
  obtain rfl : w = 0x00000001#32 := by simpa using hw
  obtain rfl : Instr.crcInit = i := by injection hi
  rfl

theorem witness_IllShows_an_illegal_word :
    State.reset.readStatus.getLsbD 2 = false ∧ KeepsIll [0x00000005#32] ∧
      ∃ t, performAll [0x00000005#32] State.reset = .next t ∧ t.readStatus.getLsbD 2 = true := by
  refine ⟨by decide, ?_, ⟨_, rfl, by decide⟩⟩
  intro w hw i hi
  obtain rfl : w = 0x00000005#32 := by simpa using hw
  exact absurd hi (by rw [show decode 0x00000005#32 = .error .reservedOpcode by decide]; nofun)

theorem witness_StepKeepsTheInvariant : (at_ 0x05#32).Inv ∧ ∃ t, step (at_ 0x05#32) = .next t :=
  ⟨by decide, _, rfl⟩

theorem witness_ResetMeetsTheInvariant : State.reset.Inv ∧ (st 0x1234 0x56 0x07 0xBEEF).Inv := by decide

theorem witness_RegistersAreWrittenByTheirCommandsOnly :
    (Instr.nop ≠ .crcInit ∧ ∀ d8, Instr.nop ≠ .crcFeed d8) ∧ (Instr.nop ≠ .lrcInit ∧ ∀ d8, Instr.nop ≠ .lrcFeed d8) ∧
      writesRes .nop = false ∧
      ((∀ d16, Instr.nop ≠ .crcChk d16) ∧ (∀ d8, Instr.nop ≠ .lrcChk d8) ∧ ∀ d8, Instr.nop ≠ .statClr d8) := by
  simp [writesRes]

theorem witness_CommandsReadTheirRegistersOnly :
    (∃ t t', exec (.crcFeed 0x01) (st 0xFFFF 0x01 0x07 0x0001) = .next t ∧
      exec (.crcFeed 0x01) (st 0xFFFF 0x02 0x00 0x0002) = .next t' ∧
      (st 0xFFFF 0x01 0x07 0x0001).crc = (st 0xFFFF 0x02 0x00 0x0002).crc) ∧
    (∃ t t', exec (.lrcChk 0x01) (st 0x0001 0xFF 0x07 0x0001) = .next t ∧
      exec (.lrcChk 0x01) (st 0x0002 0xFF 0x00 0x0002) = .next t' ∧
      (st 0x0001 0xFF 0x07 0x0001).lacc = (st 0x0002 0xFF 0x00 0x0002).lacc) ∧
    (∃ t t', exec (.statClr 0x01) (st 0x0001 0x01 0x07 0x0001) = .next t ∧
      exec (.statClr 0x01) (st 0x0002 0x02 0xFF 0x0002) = .next t' ∧
      (st 0x0001 0x01 0x07 0x0001).readStatus = (st 0x0002 0x02 0xFF 0x0002).readStatus) ∧
    (∃ t t', exec (.crcChk 0xCDC4) (st 0xCDC5 0x01 0x02 0x0001) = .next t ∧
      exec (.crcChk 0xCDC4) (st 0xCDC5 0x02 0xFA 0x0002) = .next t' ∧
      (st 0xCDC5 0x01 0x02 0x0001).crc = (st 0xCDC5 0x02 0xFA 0x0002).crc ∧
      (st 0xCDC5 0x01 0x02 0x0001).readStatus = (st 0xCDC5 0x02 0xFA 0x0002).readStatus) ∧
    (∃ t t', exec (.lrcChk 0xF3) (st 0x0001 0x0E 0x01 0x0001) = .next t ∧
      exec (.lrcChk 0xF3) (st 0x0002 0x0E 0x01 0x0002) = .next t' ∧
      (st 0x0001 0x0E 0x01 0x0001).lacc = (st 0x0002 0x0E 0x01 0x0002).lacc ∧
      (st 0x0001 0x0E 0x01 0x0001).readStatus = (st 0x0002 0x0E 0x01 0x0002).readStatus) :=
  ⟨⟨_, _, rfl, rfl, rfl⟩, ⟨_, _, rfl, rfl, rfl⟩, ⟨_, _, rfl, rfl, rfl⟩, ⟨_, _, rfl, rfl, rfl, rfl⟩,
    ⟨_, _, rfl, rfl, rfl, rfl⟩⟩

theorem witness_ResIsWrittenByResultCommandsOnly :
    decode 0x05#32 = .error .reservedOpcode ∧ (decode 0x21#32 = .ok (.statClr 0x00) ∧ writesRes (.statClr 0x00) = false) ∧
      decode 0x03#32 = .ok .crcRd ∧ decode 0x13#32 = .ok .lrcRd ∧ decode 0x20#32 = .ok .statRd ∧
      decode 0xCDC50004#32 = .ok (.crcChk 0xCDC5) ∧ decode 0x00F20014#32 = .ok (.lrcChk 0xF2) := by decide

theorem witness_ReservedStatusBitsReadZero :
    (3 ≤ 3 ∧ 3 ≤ 7) ∧ (st 0 0 0x07 0).status &&& 0xF8#8 = 0#8 ∧
      ∃ t, perform 0x000000FF (st 0 0 0x07 0) = .next t := ⟨by decide, by decide, _, rfl⟩

theorem witness_UnitsAreIndependent :
    usesCrcUnit (.crcChk 0x0000) = true ∧ usesLrcUnit (.lrcChk 0x00) = true ∧
      ∀ i ∈ [Instr.crcFeed 0x11, .lrcFeed 0x11, .nop], i ≠ .crcInit ∧ i ≠ .lrcInit := by decide

theorem witness_StatusBitsAreSticky :
    (∃ t, perform 0x00000001 (st 0 0 0x01 0) = .next t ∧ (st 0 0 0x01 0).readStatus.getLsbD 0 = true) ∧
    (∃ t, perform 0x00040021 (st 0 0 0x04 0) = .next t ∧ (st 0 0 0x04 0).readStatus.getLsbD 2 = true) ∧
    (∀ i ∈ [Instr.crcInit, .statClr 0xFF], writesRes i = false) :=
  ⟨⟨_, rfl, by decide⟩, ⟨_, rfl, by decide⟩, by decide⟩

theorem witness_ConditionsAreRaisedAndRecorded :
    (decode 0xCDC40004#32 = .ok (.crcChk 0xCDC4) ∧ 0xCDC4#16 ≠ (st 0xCDC5 0x0E 0 0).crc) ∧
    (decode 0x00F30014#32 = .ok (.lrcChk 0xF3) ∧ 0xF3#8 ≠ lrcNeg (st 0xCDC5 0x0E 0 0).lacc) ∧
    decode 0x05#32 = .error .reservedOpcode ∧ decode 0x00070021#32 = .ok (.statClr 0x07) ∧
    (∀ d8, decode 0xCDC40004#32 ≠ .ok (.statClr d8)) := by
  refine ⟨by decide, by decide, by decide, by decide, fun d8 h => ?_⟩
  rw [show decode 0xCDC40004#32 = .ok (.crcChk 0xCDC4) by decide] at h
  nomatch h

theorem witness_AWordRaisesAtMostOneCondition :
    (∃ t, perform 0xCDC40004 State.reset = .next t ∧ State.reset.readStatus.getLsbD 0 = false ∧
      t.readStatus.getLsbD 0 = true) ∧
    (∃ t, perform 0x00F30014 State.reset = .next t ∧ State.reset.readStatus.getLsbD 1 = false ∧
      t.readStatus.getLsbD 1 = true) ∧
    (∃ t, perform 0x00000005 State.reset = .next t ∧ State.reset.readStatus.getLsbD 2 = false ∧
      t.readStatus.getLsbD 2 = true) :=
  ⟨⟨_, rfl, by decide, by decide⟩, ⟨_, rfl, by decide, by decide⟩, ⟨_, rfl, by decide, by decide⟩⟩

theorem witness_ReadsChecksAndInitsAreIdempotent :
    (∀ d8, Instr.crcChk 0xCDC4 ≠ .crcFeed d8 ∧ Instr.crcChk 0xCDC4 ≠ .lrcFeed d8) ∧
      ∃ t, exec (.crcChk 0xCDC4) (st 0xCDC5 0 0 0) = .next t := ⟨fun _ => ⟨nofun, nofun⟩, _, rfl⟩

theorem witness_NoTimingHazards :
    0xFFFE#16 ≠ State.reset.crc ∧ 0x01#8 ≠ lrcNeg State.reset.lacc := by decide

theorem witness_CrcCommandsComputeTheCrcFunction :
    ∀ i ∈ [Instr.crcFeed 0x01, .lrcFeed 0x02, .crcRd, .crcFeed 0x03], i ≠ .crcInit := by decide

theorem witness_LrcCommandsComputeTheLrcFunction :
    ∀ i ∈ [Instr.lrcFeed 0x01, .crcInit, .lrcRd, .lrcFeed 0x03], i ≠ .lrcInit := by decide

theorem witness_LrcNegIsTheTwosComplement :
    (0x01#8 ≠ 0x00#8 ∧ 0x01#8 ≠ 0x80#8) ∧ (0x81#8 ≠ 0x00#8 ∧ 0x81#8 ≠ 0x80#8) := by decide

theorem witness_LrcMissesThreeKindsOfError :
    ((0 : Nat) ≠ 1 ∧ [0x00#8, 0x00#8][0].getLsbD 7 = [0x00#8, 0x00#8][1].getLsbD 7) ∧
      [0x01#8, 0x02#8].Perm [0x02#8, 0x01#8] := by decide

theorem witness_VerifyJudgesTheTrailer :
    [0x01#8] ≠ [] ∧ [0x01#8, 0x7E#8].length < 3 ∧ [0xFF#8].length < 2 := by decide

theorem witness_SingleBitFlip :
    (0 < (rtuFrame 0x01 []).length ∧ 2 < (rtuFrame 0x01 []).length) ∧
      (0 < (asciiFrame 0x01 []).length ∧ 1 < (asciiFrame 0x01 []).length) ∧ 0 < 8 ∧ 7 < 8 := by decide

theorem witness_InitMakesHistoryIrrelevant :
    (initsCrcFirst [.lrcFeed 0x01, .crcInit, .crcFeed 0x01] = true ∧
      ∃ i ∈ [Instr.lrcFeed 0x01, .crcInit, .crcFeed 0x01], usesCrcUnit i = true) ∧
    (initsLrcFirst [.crcRd, .lrcInit] = true ∧ ∃ i ∈ [Instr.crcRd, .lrcInit], usesLrcUnit i = true) := by decide

/-- Two instances, each with one word to take. -/
def twoUnits : Platform ⟨2, by decide⟩ := ⟨Vector.replicate 2 (at_ 0x00000001#32)⟩

theorem witness_InstancesShareNothing :
    (∃ q, Platform.step (.command 0) twoUnits = .next q) ∧
      (1 : Fin 2) ≠ (Platform.Event.command (cfg := ⟨2, by decide⟩) 0).target := ⟨⟨_, rfl⟩, by decide⟩

theorem witness_InstancesStepAndResetOneByOne : ∃ t, step (twoUnits.unit 1) = .next t := ⟨_, rfl⟩

theorem witness_AssemblerRefusesAndNeverTruncates :
    (Command.mk .crcChk (some 0xFFFF)).wellFormed = true ∧ (Command.mk .crcFeed (some 0x100)).wellFormed = false := by
  decide

end Sys2Proof.Tests
end

section
/-! SUPPORT. The rules of the state's operations that the statements of 10_state.md need: what each command makes of
the state, and what it does to RES and STATUS. -/

namespace Sys2Proof.Machine

variable (s : State)

/-! ## The next state of each command (30_encoding.md R46), in the state's operations -/

@[simp] theorem exec_nop : exec .nop s = .next s := rfl
@[simp] theorem exec_crcInit : exec .crcInit s = .next (s.writeCrc crcInitValue) := rfl
@[simp] theorem exec_crcFeed (d8 : Byte) : exec (.crcFeed d8) s = .next (s.writeCrc (crcStep s.crc d8)) := rfl
@[simp] theorem exec_crcRd : exec .crcRd s = .next (s.writeRes s.crc) := rfl
@[simp] theorem exec_crcChk (d16 : Half) : exec (.crcChk d16) s = .next (s.check (d16 == s.crc) .crcm) := rfl
@[simp] theorem exec_lrcInit : exec .lrcInit s = .next (s.writeLacc 0x00) := rfl
@[simp] theorem exec_lrcFeed (d8 : Byte) : exec (.lrcFeed d8) s = .next (s.writeLacc (s.lacc + d8)) := rfl
@[simp] theorem exec_lrcRd : exec .lrcRd s = .next (s.writeRes (zext16 (lrcNeg s.lacc))) := rfl
@[simp] theorem exec_lrcChk (d8 : Byte) : exec (.lrcChk d8) s = .next (s.check (d8 == lrcNeg s.lacc) .lrcm) := rfl
@[simp] theorem exec_statRd : exec .statRd s = .next (s.writeRes (zext16 s.readStatus)) := rfl
@[simp] theorem exec_statClr (d8 : Byte) : exec (.statClr d8) s = .next (s.acknowledge d8) := rfl

/-- Every command has a next state (93_implementation_defined.md part 3). -/
theorem exec_total (i : Instr) : ∃ t, exec i s = .next t := by
  cases i <;> exact ⟨_, rfl⟩

/-- Every word, legal or not, has a next state (42_control.md R87). -/
theorem perform_total (w : Word) : ∃ t, perform w s = .next t := by
  obtain ⟨i, -, hi⟩ | ⟨_, -, he⟩ := perform_cases w s
  · exact hi ▸ exec_total s i
  · exact ⟨_, he⟩

/-- The next state of a word that decodes to a command is the command's. -/
theorem perform_next_iff_exec {w : Word} {i : Instr} {s t : State} (h : decode w = .ok i) :
    perform w s = .next t ↔ exec i s = .next t := by
  rw [perform_ok h]

/-! ## The response port and bytes in a halfword -/

@[simp] theorem State.response_res : s.response.res = s.res := rfl
@[simp] theorem State.response_status : s.response.status = s.readStatus := rfl

/-- An 8-bit result leaves the upper byte 0 (30_encoding.md R45). -/
@[simp] theorem highByte_zext16 (b : Byte) : highByte (zext16 b) = 0x00#8 := by
  apply BitVec.eq_of_getLsbD_eq
  intro i hi
  simp [highByte, zext16]

/-! ## RES -/

/-- A check puts its verdict in RES (40_crc16.md R61, 41_lrc8.md R74). -/
theorem State.check_res (agree : Bool) (c : Condition) :
    (s.check agree c).res = if agree then 0x0000#16 else 0x0001#16 := by
  cases agree <;> rfl

/-- A command outside R17's list leaves RES. -/
theorem exec_res_of_not_writesRes {i : Instr} {s t : State} (hi : writesRes i = false) (ht : exec i s = .next t) :
    t.res = s.res := by
  cases i with
  | crcRd | crcChk _ | lrcRd | lrcChk _ | statRd => cases hi
  | nop | crcInit | crcFeed _ | lrcInit | lrcFeed _ | statClr _ => cases ht; rfl

/-! ## STATUS -/

/-- A check that agrees leaves STATUS as it is held, and one that disagrees writes it through `writeStatus`. -/
theorem State.check_status_cases (agree : Bool) (c : Condition) :
    (s.check agree c).status = s.status ∨ ∃ v, (s.check agree c).status = (s.writeStatus v).status := by
  cases agree with
  | true => exact .inl rfl
  | false => exact .inr ⟨_, rfl⟩

/-- A command leaves STATUS as it is held, or writes it through `writeStatus`. -/
theorem exec_status_cases {i : Instr} {s t : State} (ht : exec i s = .next t) :
    t.status = s.status ∨ ∃ v, t.status = (s.writeStatus v).status := by
  cases i with
  | nop | crcInit | crcFeed _ | crcRd | lrcInit | lrcFeed _ | lrcRd | statRd => cases ht; exact .inl rfl
  | crcChk _ | lrcChk _ => cases ht; exact s.check_status_cases _ _
  | statClr _ => cases ht; exact .inr ⟨_, rfl⟩

/-- A word leaves STATUS as it is held, or writes it through `writeStatus`. -/
theorem perform_status_cases {w : Word} {s t : State} (ht : perform w s = .next t) :
    t.status = s.status ∨ ∃ v, t.status = (s.writeStatus v).status := by
  obtain ⟨i, -, hi⟩ | ⟨_, -, he⟩ := perform_cases w s
  · exact exec_status_cases (hi ▸ ht)
  · cases he.symm.trans ht
    exact .inr ⟨_, rfl⟩

/-- Bits 7 to 3 of STATUS stay 0 under every word (10_state.md R19). -/
theorem perform_keeps_reserved_zero {w : Word} {s t : State} (ht : perform w s = .next t)
    (hs : s.status &&& 0xF8#8 = 0#8) : t.status &&& 0xF8#8 = 0#8 := by
  obtain h | ⟨v, h⟩ := perform_status_cases ht
  · rw [h, hs]
  · rw [h, writeStatus_reserved_zero]

theorem readStatus_bit_of_ge {k : Nat} (hk : 3 ≤ k) : s.readStatus.getLsbD k = false := by
  rw [readStatus_bit, decide_eq_false (by omega), Bool.and_false]

/-- A mask acts through its bits 2 to 0 alone (42_control.md R83). -/
theorem acknowledge_and_statusMask (m : Byte) : s.acknowledge (m &&& statusMask) = s.acknowledge m := by
  have h : ~~~(m &&& statusMask) &&& statusMask = ~~~m &&& statusMask := by
    rw [BitVec.not_and, BitVec.and_or_distrib_right, BitVec.and_comm (~~~statusMask)]
    simp
  rw [State.acknowledge, State.acknowledge, statusClear, statusClear, BitVec.and_assoc, h, BitVec.and_assoc]

end Sys2Proof.Machine
end

section
/-! The statements of 10_state.md that are settled here: O30, O31 and O1. -/

namespace Sys2Proof.Machine

/-- Settles O30: each clause reads the next state off the word's command. -/
theorem resIsWrittenByResultCommandsOnly : Obligations.ResIsWrittenByResultCommandsOnly := by
  refine ⟨fun w s => ?_, fun s => ⟨s.platformReset_res, s.response_res⟩⟩
  obtain ⟨t, ht⟩ := perform_total s w
  refine ⟨t, ht, ?illegal, ?others, ?crcRd, ?byteResults, ?crcChk, ?lrcChk⟩
  case illegal =>
    rintro ⟨e, he⟩
    cases (perform_error he s).symm.trans ht
    exact s.raise_res .ill
  case others => exact fun i hi hw => exec_res_of_not_writesRes hw ((perform_next_iff_exec hi).1 ht)
  case crcRd =>
    intro h
    cases (perform_next_iff_exec h).1 ht
    exact s.writeRes_res _
  case byteResults =>
    rintro (h | h)
    · cases (perform_next_iff_exec h).1 ht
      exact highByte_zext16 _
    · cases (perform_next_iff_exec h).1 ht
      exact highByte_zext16 _
  case crcChk =>
    intro d16 h
    cases (perform_next_iff_exec h).1 ht
    simp [State.check_res]
  case lrcChk =>
    intro d8 h
    cases (perform_next_iff_exec h).1 ht
    simp [State.check_res]

/-- Settles O31: every reader and every writer of STATUS goes through `statusMask`. -/
theorem reservedStatusBitsReadZero : Obligations.ReservedStatusBitsReadZero := by
  refine ⟨fun s k hk => ?reads, fun w s t => perform_keeps_reserved_zero, fun d8 s => ?masks⟩
  case reads =>
    rw [State.response_status]
    exact ⟨readStatus_bit_of_ge s hk, readStatus_bit_of_ge s hk⟩
  case masks =>
    have h : (d8 ||| 0xF8#8) &&& statusMask = d8 &&& statusMask := by
      rw [BitVec.and_or_distrib_right, show 0xF8#8 &&& statusMask = 0#8 from rfl, BitVec.or_zero]
    rw [exec_statClr, exec_statClr, ← acknowledge_and_statusMask s (d8 ||| 0xF8#8), h]
    rfl

/-- Settles O1: the literals of `State.reset`, and the values that the two INIT commands load. -/
theorem resetRegisterValues : Obligations.ResetRegisterValues :=
  ⟨rfl, rfl, rfl, rfl, rfl, fun s =>
    ⟨⟨_, exec_crcInit s, s.writeCrc_crc _⟩, ⟨_, exec_lrcInit s, s.writeLacc_lacc _⟩⟩⟩

end Sys2Proof.Machine
end

section
/-! SUPPORT. A command word is known by its fields (30_encoding.md R41), and a halfword by its two bytes. -/

namespace Sys2Proof

/-! ## A word is its four bytes -/

theorem toNat_eq_fields (w : Word) : w.toNat = (opField w).toNat + 2 ^ 8 * (rsvField w).toNat +
    2 ^ 16 * (d8Field w).toNat + 2 ^ 24 * (hi8Field w).toNat := by
  have := w.isLt
  simp only [opField, rsvField, d8Field, hi8Field, BitVec.extractLsb'_toNat, Nat.shiftRight_eq_div_pow]
  omega

theorem word_ext_iff {w v : Word} : w = v ↔
    opField w = opField v ∧ rsvField w = rsvField v ∧ d8Field w = d8Field v ∧ hi8Field w = hi8Field v := by
  constructor
  · rintro rfl
    exact ⟨rfl, rfl, rfl, rfl⟩
  · rintro ⟨hop, hrsv, hd8, hhi8⟩
    rw [← BitVec.toNat_inj, toNat_eq_fields w, toNat_eq_fields v, hop, hrsv, hd8, hhi8]

theorem upperField_toNat (w : Word) : (upperField w).toNat = (rsvField w).toNat +
    2 ^ 8 * (d8Field w).toNat + 2 ^ 16 * (hi8Field w).toNat := by
  have := w.isLt
  simp only [upperField, rsvField, d8Field, hi8Field, BitVec.extractLsb'_toNat, Nat.shiftRight_eq_div_pow]
  omega

theorem d16Field_toNat (w : Word) : (d16Field w).toNat = (d8Field w).toNat + 2 ^ 8 * (hi8Field w).toNat := by
  have := w.isLt
  simp only [d16Field, d8Field, hi8Field, BitVec.extractLsb'_toNat, Nat.shiftRight_eq_div_pow]
  omega

theorem upperField_eq_zero_iff (w : Word) :
    upperField w = 0 ↔ rsvField w = 0 ∧ d8Field w = 0 ∧ hi8Field w = 0 := by
  simp only [← BitVec.toNat_inj, upperField_toNat, BitVec.ofNat_eq_ofNat, BitVec.toNat_ofNat]
  omega

theorem d16Field_eq_iff (w v : Word) :
    d16Field w = d16Field v ↔ d8Field w = d8Field v ∧ hi8Field w = hi8Field v := by
  have := (d8Field w).isLt
  have := (d8Field v).isLt
  simp only [← BitVec.toNat_inj, d16Field_toNat]
  omega

/-! ## Fields of a format-N word and of a masked word -/

@[simp] theorem opField_wordN (op : Byte) : opField (wordN op) = op := by
  apply BitVec.eq_of_getLsbD_eq
  intro i hi
  simp [opField, wordN, hi, show i < 32 by omega]

@[simp] theorem upperField_wordN (op : Byte) : upperField (wordN op) = 0 := by
  apply BitVec.eq_of_getLsbD_eq
  intro i hi
  simp [upperField, wordN]

@[simp] theorem opField_and (w v : Word) : opField (w &&& v) = opField w &&& opField v := BitVec.extractLsb'_and
@[simp] theorem rsvField_and (w v : Word) : rsvField (w &&& v) = rsvField w &&& rsvField v := BitVec.extractLsb'_and
@[simp] theorem d8Field_and (w v : Word) : d8Field (w &&& v) = d8Field w &&& d8Field v := BitVec.extractLsb'_and
@[simp] theorem hi8Field_and (w v : Word) : hi8Field (w &&& v) = hi8Field w &&& hi8Field v := BitVec.extractLsb'_and

/-- A word with nothing outside its op is known by its op. -/
theorem eq_wordN_iff (w : Word) (op : Byte) :
    w = wordN op ↔ opField w = op ∧ rsvField w = 0 ∧ d8Field w = 0 ∧ hi8Field w = 0 := by
  obtain ⟨hrsv, hd8, hhi8⟩ := (upperField_eq_zero_iff _).1 (upperField_wordN op)
  rw [word_ext_iff, opField_wordN, hrsv, hd8, hhi8]

end Sys2Proof

namespace Sys2Proof.Machine

/-! ## A halfword is its two bytes (20_memory.md R33) -/

theorem half_ext_iff {c d : Half} : c = d ↔ lowByte c = lowByte d ∧ highByte c = highByte d := by
  have := c.isLt
  have := d.isLt
  simp only [lowByte, highByte, ← BitVec.toNat_inj, BitVec.extractLsb'_toNat, Nat.shiftRight_eq_div_pow]
  omega

@[simp] theorem lowByte_trailerOperand (t0 t1 : Byte) : lowByte (trailerOperand t0 t1) = t0 := by
  apply BitVec.eq_of_getLsbD_eq
  intro i hi
  simp [lowByte, trailerOperand, zext16, hi, show i < 16 by omega]

@[simp] theorem highByte_trailerOperand (t0 t1 : Byte) : highByte (trailerOperand t0 t1) = t1 := by
  apply BitVec.eq_of_getLsbD_eq
  intro i hi
  simp [highByte, trailerOperand, zext16, hi, show 8 + i < 16 by omega]

/-- Two trailer bytes give a CRC as CRC_CHK's operand exactly when they are its trailer (30_encoding.md R45). -/
theorem trailerOperand_eq_iff (t0 t1 : Byte) (c : Half) : trailerOperand t0 t1 = c ↔ [t0, t1] = crcTrailer c := by
  rw [half_ext_iff, lowByte_trailerOperand, highByte_trailerOperand, crcTrailer]
  simp

end Sys2Proof.Machine
end

section
/-! SUPPORT. The decoder, said once as the opcode table's rows: a word decodes to a command exactly when it has the
row's op, the row's reserved bits are 0, and the command's operand is the field the row's format names
(30_encoding.md R42 to R48). -/

namespace Sys2Proof

/-- The bits the format requires to be 0 are 0 (30_encoding.md R42 to R44). -/
def Format.ReservedZero (f : Format) (w : Word) : Prop :=
  match f with
  | .n => upperField w = 0
  | .b => hi8Field w = 0 ∧ rsvField w = 0
  | .h => rsvField w = 0

/-- The operand the format takes from a word, as a number (30_encoding.md R45). -/
def Format.operandField (f : Format) (w : Word) : Option Nat :=
  match f with
  | .n => none
  | .b => some (d8Field w).toNat
  | .h => some (d16Field w).toNat

/-- How many operands the format has. -/
def Format.operandCount : Format → Nat
  | .n => 1
  | .b => 256
  | .h => 65536

/-! ## The rows of the table -/

theorem Mnemonic.mem_all (m : Mnemonic) : m ∈ Mnemonic.all := by cases m <;> decide

/-- "every row has a distinct `op`" (30_encoding.md R48). -/
theorem Mnemonic.opcode_injective : Function.Injective Mnemonic.opcode := fun m m' h =>
  List.inj_on_of_nodup_map (show (Mnemonic.all.map Mnemonic.opcode).Nodup by decide) m.mem_all m'.mem_all h

/-- The mask of a format covers the op and the reserved bits, and nothing else. -/
theorem and_mask_eq_wordN_iff (f : Format) (w : Word) (op : Byte) :
    w &&& f.mask = wordN op ↔ opField w = op ∧ f.ReservedZero w := by
  have kept (b : Byte) : b &&& 0xFF#8 = b := BitVec.and_allOnes
  have dropped (b : Byte) : b &&& 0x00#8 = 0 := BitVec.and_zero
  rw [eq_wordN_iff, opField_and, rsvField_and, d8Field_and, hi8Field_and]
  cases f with
  | n =>
    change opField w &&& 0xFF#8 = op ∧ rsvField w &&& 0xFF#8 = 0 ∧ d8Field w &&& 0xFF#8 = 0 ∧
      hi8Field w &&& 0xFF#8 = 0 ↔ _
    simp only [kept, Format.ReservedZero, upperField_eq_zero_iff]
  | b =>
    change opField w &&& 0xFF#8 = op ∧ rsvField w &&& 0xFF#8 = 0 ∧ d8Field w &&& 0x00#8 = 0 ∧
      hi8Field w &&& 0xFF#8 = 0 ↔ _
    simp only [kept, dropped, Format.ReservedZero, true_and, and_comm (a := rsvField w = 0)]
  | h =>
    change opField w &&& 0xFF#8 = op ∧ rsvField w &&& 0xFF#8 = 0 ∧ d8Field w &&& 0x00#8 = 0 ∧
      hi8Field w &&& 0x00#8 = 0 ↔ _
    simp only [kept, dropped, Format.ReservedZero, and_true]

/-- A row matches a word under its mask exactly when the word has the row's op and 0 in the reserved bits. -/
theorem and_mask_eq_pattern_iff (m : Mnemonic) (w : Word) :
    w &&& m.format.mask = m.pattern ↔ opField w = m.opcode ∧ m.format.ReservedZero w :=
  and_mask_eq_wordN_iff m.format w m.opcode

/-! ## A command is its row and its operand -/

open Machine (instrOf)

@[simp] theorem mnemonic_instrOf (m : Mnemonic) (v : Nat) : (instrOf m v).mnemonic = m := by cases m <;> rfl

/-- A command is rebuilt from its row and its operand. -/
@[simp] theorem instrOf_mnemonic_operand (i : Instr) : instrOf i.mnemonic (i.operand.getD 0) = i := by
  cases i with
  | nop | crcInit | crcRd | lrcInit | lrcRd | statRd => rfl
  | crcFeed d | lrcFeed d | lrcChk d | statClr d | crcChk d => simp [Instr.mnemonic, Instr.operand, instrOf]

/-- An operand below the format's count is kept. -/
theorem operand_instrOf {m : Mnemonic} {v : Nat} (hv : v < m.format.operandCount) :
    (instrOf m v).operand.getD 0 = v := by
  cases m with
  | nop | crcInit | crcRd | lrcInit | lrcRd | statRd => exact (Nat.lt_one_iff.1 hv).symm
  | crcFeed | lrcFeed | lrcChk | statClr | crcChk => exact Nat.mod_eq_of_lt hv

theorem operand_lt (i : Instr) : i.operand.getD 0 < i.mnemonic.format.operandCount := by
  cases i with
  | nop | crcInit | crcRd | lrcInit | lrcRd | statRd => exact Nat.one_pos
  | crcFeed d | lrcFeed d | lrcChk d | statClr d | crcChk d => exact d.isLt

theorem operand_instrOf_operandField (m : Mnemonic) (w : Word) :
    (instrOf m ((m.format.operandField w).getD 0)).operand = m.format.operandField w := by
  cases m with
  | nop | crcInit | crcRd | lrcInit | lrcRd | statRd => rfl
  | crcFeed | lrcFeed | lrcChk | statClr | crcChk =>
    simp [Mnemonic.format, Format.operandField, instrOf, Instr.operand]

/-! ## The decoder by rows -/

/-- A word with the op of a row decodes as the row's format says. -/
theorem decode_of_opField {m : Mnemonic} {w : Word} (h : opField w = m.opcode) (i : Instr) :
    decode w = .ok i ↔ m.format.ReservedZero w ∧ instrOf m ((m.format.operandField w).getD 0) = i := by
  cases m with
  | nop | crcInit | crcRd | lrcInit | lrcRd | statRd =>
    simp [decode, h, Mnemonic.opcode, decodeN_eq_ok, Mnemonic.format, Format.ReservedZero, instrOf]
  | crcFeed | lrcFeed | lrcChk | statClr =>
    simp [decode, h, Mnemonic.opcode, decodeB_eq_ok, Mnemonic.format, Format.ReservedZero, Format.operandField, instrOf]
  | crcChk =>
    simp [decode, h, Mnemonic.opcode, decodeH_eq_ok, Mnemonic.format, Format.ReservedZero, Format.operandField, instrOf]

/-- A word whose op is in no row is illegal. -/
theorem decode_of_no_row {w : Word} (h : ∀ m : Mnemonic, opField w ≠ m.opcode) :
    decode w = .error .reservedOpcode := by
  unfold decode
  split
  · exact absurd (BitVec.eq_of_toNat_eq ‹_›) (h .nop)
  · exact absurd (BitVec.eq_of_toNat_eq ‹_›) (h .crcInit)
  · exact absurd (BitVec.eq_of_toNat_eq ‹_›) (h .crcFeed)
  · exact absurd (BitVec.eq_of_toNat_eq ‹_›) (h .crcRd)
  · exact absurd (BitVec.eq_of_toNat_eq ‹_›) (h .crcChk)
  · exact absurd (BitVec.eq_of_toNat_eq ‹_›) (h .lrcInit)
  · exact absurd (BitVec.eq_of_toNat_eq ‹_›) (h .lrcFeed)
  · exact absurd (BitVec.eq_of_toNat_eq ‹_›) (h .lrcRd)
  · exact absurd (BitVec.eq_of_toNat_eq ‹_›) (h .lrcChk)
  · exact absurd (BitVec.eq_of_toNat_eq ‹_›) (h .statRd)
  · exact absurd (BitVec.eq_of_toNat_eq ‹_›) (h .statClr)
  · rfl

/-- A word decodes to a command exactly when its op, its reserved bits and its operand field are the command's. -/
theorem decode_eq_ok_iff {w : Word} {i : Instr} : decode w = .ok i ↔
    opField w = i.mnemonic.opcode ∧ i.mnemonic.format.ReservedZero w ∧
      i.operand = i.mnemonic.format.operandField w := by
  constructor
  · intro hw
    by_cases hrow : ∃ m : Mnemonic, opField w = m.opcode
    · obtain ⟨m, hop⟩ := hrow
      obtain ⟨hz, rfl⟩ := (decode_of_opField hop i).1 hw
      rw [mnemonic_instrOf, operand_instrOf_operandField]
      exact ⟨hop, hz, rfl⟩
    · rw [decode_of_no_row (not_exists.1 hrow)] at hw
      cases hw
  · rintro ⟨hop, hz, hi⟩
    rw [decode_of_opField hop, ← hi, instrOf_mnemonic_operand]
    exact ⟨hz, rfl⟩

/-- A word decodes to some command of a row exactly when it has the row's op and 0 in the reserved bits. -/
theorem exists_decode_of_row_iff (m : Mnemonic) (w : Word) :
    (∃ i, decode w = .ok i ∧ i.mnemonic = m) ↔ opField w = m.opcode ∧ m.format.ReservedZero w := by
  constructor
  · rintro ⟨i, hw, rfl⟩
    obtain ⟨hop, hz, -⟩ := decode_eq_ok_iff.1 hw
    exact ⟨hop, hz⟩
  · rintro ⟨hop, hz⟩
    exact ⟨_, (decode_of_opField hop _).2 ⟨hz, rfl⟩, mnemonic_instrOf m _⟩

/-- A word decodes to a command exactly when it has the op of some row and 0 in that row's reserved bits. -/
theorem exists_decode_iff (w : Word) :
    (∃ i, decode w = .ok i) ↔ ∃ m ∈ Mnemonic.all, opField w = m.opcode ∧ m.format.ReservedZero w := by
  constructor
  · rintro ⟨i, hw⟩
    exact ⟨i.mnemonic, i.mnemonic.mem_all, (exists_decode_of_row_iff _ w).1 ⟨i, hw, rfl⟩⟩
  · rintro ⟨m, -, hm⟩
    obtain ⟨i, hw, -⟩ := (exists_decode_of_row_iff m w).2 hm
    exact ⟨i, hw⟩

theorem legal_eq_true_iff (w : Word) : legal w = true ↔ ∃ i, decode w = .ok i := by
  simp only [legal, List.any_eq_true, Mnemonic.matchesWord, beq_iff_eq, and_mask_eq_pattern_iff, exists_decode_iff]

theorem exists_decode_error_of_not_legal {w : Word} (h : legal w = false) : ∃ e, decode w = .error e := by
  cases hw : decode w with
  | ok i => exact absurd ((legal_eq_true_iff w).2 ⟨i, hw⟩) (by simp [h])
  | error e => exact ⟨e, rfl⟩

/-! ## Encoding -/

theorem decode_encode (i : Instr) : decode (encode i) = .ok i := by
  rw [decode_eq_ok_iff]
  cases i with
  | nop | crcInit | crcRd | lrcInit | lrcRd | statRd => exact ⟨opField_wordN _, upperField_wordN _, rfl⟩
  | crcFeed d | lrcFeed d | lrcChk d | statClr d =>
    exact ⟨opField_wordB _ d, ⟨hi8Field_wordB _ d, rsvField_wordB _ d⟩,
      congrArg (fun x : Byte => some x.toNat) (d8Field_wordB _ d).symm⟩
  | crcChk d =>
    exact ⟨opField_wordH _ d, rsvField_wordH _ d, congrArg (fun x : Half => some x.toNat) (d16Field_wordH _ d).symm⟩

theorem encode_injective : Function.Injective encode := fun i j h =>
  Except.ok.inj ((decode_encode i).symm.trans (h ▸ decode_encode j))

/-- The op, the reserved bits and the operand field of a format are the whole word. -/
theorem Format.eq_of_operandField_eq (f : Format) {w v : Word} (hop : opField w = opField v)
    (hw : f.ReservedZero w) (hv : f.ReservedZero v) (hd : f.operandField w = f.operandField v) : w = v := by
  rw [word_ext_iff]
  cases f with
  | n =>
    obtain ⟨hw1, hw2, hw3⟩ := (upperField_eq_zero_iff w).1 hw
    obtain ⟨hv1, hv2, hv3⟩ := (upperField_eq_zero_iff v).1 hv
    exact ⟨hop, hw1.trans hv1.symm, hw2.trans hv2.symm, hw3.trans hv3.symm⟩
  | b =>
    obtain ⟨hw1, hw2⟩ := hw
    obtain ⟨hv1, hv2⟩ := hv
    exact ⟨hop, hw2.trans hv2.symm, BitVec.eq_of_toNat_eq (Option.some.inj hd), hw1.trans hv1.symm⟩
  | h => exact ⟨hop, hw.trans hv.symm, (d16Field_eq_iff w v).1 (BitVec.eq_of_toNat_eq (Option.some.inj hd))⟩

/-- No two words decode to one command. -/
theorem decode_injective {w v : Word} {i : Instr} (hw : decode w = .ok i) (hv : decode v = .ok i) : w = v := by
  obtain ⟨hwop, hwz, hwd⟩ := decode_eq_ok_iff.1 hw
  obtain ⟨hvop, hvz, hvd⟩ := decode_eq_ok_iff.1 hv
  exact i.mnemonic.format.eq_of_operandField_eq (hwop.trans hvop.symm) hwz hvz (hwd.symm.trans hvd)

theorem decode_eq_ok_iff_encode {w : Word} {i : Instr} : decode w = .ok i ↔ encode i = w :=
  ⟨decode_injective (decode_encode i), fun h => h ▸ decode_encode i⟩

/-! ## The legal words of a format, listed -/

/-- The commands of a row, one for each operand. -/
def Mnemonic.commands (m : Mnemonic) : List Instr := (List.range m.format.operandCount).map (instrOf m)

/-- The rows of a format. -/
def Format.rows (f : Format) : List Mnemonic := Mnemonic.all.filter (·.format = f)

/-- The words of all commands of a format. -/
def Format.words (f : Format) : List Word := (f.rows.flatMap Mnemonic.commands).map encode

theorem Format.mem_rows {f : Format} {m : Mnemonic} : m ∈ f.rows ↔ m.format = f := by
  simp [Format.rows, m.mem_all]

theorem Mnemonic.mem_commands {m : Mnemonic} {i : Instr} : i ∈ m.commands ↔ i.mnemonic = m := by
  rw [Mnemonic.commands, List.mem_map]
  constructor
  · rintro ⟨v, -, rfl⟩
    exact mnemonic_instrOf m v
  · rintro rfl
    exact ⟨_, List.mem_range.2 (operand_lt i), instrOf_mnemonic_operand i⟩

theorem Mnemonic.nodup_commands (m : Mnemonic) : m.commands.Nodup := by
  refine List.Nodup.map_on (fun v hv v' hv' h => ?_) List.nodup_range
  rw [← operand_instrOf (List.mem_range.1 hv), h, operand_instrOf (List.mem_range.1 hv')]

theorem Format.mem_words {f : Format} {w : Word} :
    w ∈ f.words ↔ ∃ i, decode w = .ok i ∧ i.mnemonic.format = f := by
  simp [Format.words, Format.mem_rows, Mnemonic.mem_commands, decode_eq_ok_iff_encode, and_comm]

theorem Format.nodup_words (f : Format) : f.words.Nodup := by
  refine List.Nodup.map encode_injective (List.nodup_flatMap.2 ⟨fun m _ => m.nodup_commands, ?_⟩)
  have hrows : f.rows.Nodup := List.Nodup.filter _ (by decide)
  exact hrows.imp fun hne i hi hi' => hne ((Mnemonic.mem_commands.1 hi).symm.trans (Mnemonic.mem_commands.1 hi'))

theorem Format.length_words (f : Format) : f.words.length = f.rows.length * f.operandCount := by
  have hlen : ∀ m ∈ f.rows, m.commands.length = f.operandCount := fun m hm => by
    rw [Mnemonic.commands, List.length_map, List.length_range, Format.mem_rows.1 hm]
  rw [Format.words, List.length_map, List.length_flatMap, List.map_congr_left hlen, List.map_const', List.sum_replicate,
    smul_eq_mul]

end Sys2Proof
end

section
/-! SUPPORT. What a run of FEED commands leaves, from any state, and the verdict of a check. -/

namespace Sys2Proof.Machine

/-- Feeding a range to the CRC unit writes CRC alone (40_crc16.md R59). -/
theorem execAll_feedCrc (bs : List Byte) (s : State) :
    execAll (feedCrc bs) s = .next (s.writeCrc (crcFrom s.crc bs)) := by
  induction bs generalizing s with
  | nil => rfl
  | cons b bs ih => exact ih (s.writeCrc (crcStep s.crc b))

/-- Feeding a range to the LRC unit writes LACC alone (41_lrc8.md R72). -/
theorem execAll_feedLrc (bs : List Byte) (s : State) :
    execAll (feedLrc bs) s = .next (s.writeLacc (lrcSumFrom s.lacc bs)) := by
  induction bs generalizing s with
  | nil => rfl
  | cons b bs ih => exact ih (s.writeLacc (s.lacc + b))

theorem execAll_singleton (i : Instr) (s : State) : execAll [i] s = exec i s := by
  obtain ⟨t, ht⟩ := exec_total s i
  rw [execAll_cons, ht, andThen_next, execAll_nil]

/-- After CRC_INIT and a fed range, the commands that follow find the range's CRC (40_crc16.md R57). -/
theorem execAll_crcInit_feedCrc (bs : List Byte) (is : List Instr) (s : State) :
    execAll ([Instr.crcInit] ++ feedCrc bs ++ is) s = execAll is (s.writeCrc (crc16 bs)) := by
  rw [execAll_append, List.singleton_append, execAll_cons, exec_crcInit, andThen_next, execAll_feedCrc, andThen_next]
  rfl

/-- After LRC_INIT and a fed range, the commands that follow find the range's sum (41_lrc8.md R68). -/
theorem execAll_lrcInit_feedLrc (bs : List Byte) (is : List Instr) (s : State) :
    execAll ([Instr.lrcInit] ++ feedLrc bs ++ is) s = execAll is (s.writeLacc (lrcSum bs)) := by
  rw [execAll_append, List.singleton_append, execAll_cons, exec_lrcInit, andThen_next, execAll_feedLrc, andThen_next]
  rfl

theorem check_res_eq_zero_iff (agree : Bool) (c : Condition) (s : State) :
    (s.check agree c).res = 0x0000#16 ↔ agree = true := by
  cases agree <;> simp [State.check_res]

end Sys2Proof.Machine
end

section
/-! The statements of 30_encoding.md that are settled here: O14, O17, O18 and O60. -/

namespace Sys2Proof.Machine

/-- An illegal word sets STATUS.ILL and leaves the rest (30_encoding.md R51). -/
theorem illegalEffect_of_not_legal {w : Word} (h : legal w = false) (s : State) : IllegalEffect w s := by
  obtain ⟨e, he⟩ := exists_decode_error_of_not_legal h
  exact ⟨_, perform_error he s, s.raise_crc _, s.raise_lacc _, s.raise_res _, readStatus_raise s .ill⟩

/-- Settles O14: no row matches the word, so it decodes to a rejection and is performed as `raise .ill`. -/
theorem illegalWordSetsIllAndNothingElse : Obligations.IllegalWordSetsIllAndNothingElse := by
  refine fun w h s => ⟨illegalEffect_of_not_legal h s, fun ws => ?_, fun p hp ⟨hlegal, _⟩ => ?_⟩
  · obtain ⟨t, ht⟩ := perform_total s w
    exact ⟨t, ht, by rw [performAll_cons, ht, andThen_next]⟩
  · exact Bool.false_ne_true (h.symm.trans (hlegal w hp))

/-- Settles O17: a mask keeps the op and the reserved bits, which is what the decoder looks at. -/
theorem decodeAgreesWithOpcodeTable : Obligations.DecodeAgreesWithOpcodeTable := by
  refine ⟨fun w m => ?row, fun w m m' h h' => ?unique, fun w i h => ?operand⟩
  case row => rw [exists_decode_of_row_iff, and_mask_eq_pattern_iff]
  case unique =>
    obtain ⟨hop, -⟩ := (and_mask_eq_pattern_iff m w).1 h
    obtain ⟨hop', -⟩ := (and_mask_eq_pattern_iff m' w).1 h'
    exact Mnemonic.opcode_injective (hop.symm.trans hop')
  case operand =>
    obtain ⟨-, -, hi⟩ := decode_eq_ok_iff.1 h
    exact hi

/-- The ops outside the table (30_encoding.md R47) are in no row. -/
theorem not_opcode_of_reserved {w : Word} (h : 0x05 ≤ (opField w).toNat ∧ (opField w).toNat ≤ 0x10 ∨
    0x15 ≤ (opField w).toNat ∧ (opField w).toNat ≤ 0x1F ∨ 0x22 ≤ (opField w).toNat) (m : Mnemonic) :
    opField w ≠ m.opcode := by
  intro hop
  rw [hop] at h
  revert h
  cases m <;> decide

/-- Settles O18: the words of a format are the encodings of its rows' commands, one for each operand. -/
theorem legalWordsAreCounted : Obligations.LegalWordsAreCounted := by
  refine ⟨fun w => ?legal, fun f => ⟨f.words, f.nodup_words, ?count, fun w => Format.mem_words⟩,
    fun w h => ?reserved, decode_encode .nop, _, decode_of_no_row (not_opcode_of_reserved (by decide))⟩
  case legal => exact exists_decode_iff w
  case count =>
    rw [f.length_words]
    cases f <;> rfl
  case reserved => exact ⟨_, decode_of_no_row (not_opcode_of_reserved h)⟩

/-- Settles O60: an expansion is INIT, the fed range and one last command, which finds the range's checksum. -/
theorem pseudoInstructionsExpand : Obligations.PseudoInstructionsExpand := by
  refine ⟨fun bs => ⟨rfl, rfl, rfl, rfl⟩, fun t0 t1 bs => ⟨rfl, rfl⟩, rfl, rfl, rfl, fun bs s => ?crcBytes,
    fun bs s => ?lrcBytes, fun bs s => ?crcGen, fun bs s => ?lrcGen, fun t0 t1 bs s => ?crcVer, fun b bs s => ?lrcVer,
    fun s => ?statClrAll⟩
  case crcBytes => exact ⟨_, execAll_feedCrc bs s, s.writeCrc_crc _⟩
  case lrcBytes => exact ⟨_, execAll_feedLrc bs s, s.writeLacc_lacc _⟩
  case crcGen =>
    rw [Pseudo.expand, execAll_crcInit_feedCrc, execAll_singleton, exec_crcRd]
    exact ⟨_, rfl, State.writeRes_res _ _⟩
  case lrcGen =>
    rw [Pseudo.expand, execAll_lrcInit_feedLrc, execAll_singleton, exec_lrcRd]
    exact ⟨_, rfl, State.writeRes_res _ _⟩
  case crcVer =>
    rw [Pseudo.expand, execAll_crcInit_feedCrc, execAll_singleton, exec_crcChk]
    refine ⟨_, rfl, ?_⟩
    rw [check_res_eq_zero_iff, beq_iff_eq, State.writeCrc_crc, trailerOperand_eq_iff]
  case lrcVer =>
    rw [Pseudo.expand, execAll_lrcInit_feedLrc, execAll_singleton, exec_lrcChk]
    refine ⟨_, rfl, ?_⟩
    rw [check_res_eq_zero_iff, beq_iff_eq, State.writeLacc_lacc, lrc8]
  case statClrAll =>
    rw [Pseudo.expand, execAll_singleton, exec_statClr]
    refine ⟨_, rfl, ?_⟩
    rw [readStatus_acknowledge, statusClear, BitVec.and_assoc, show ~~~(0x07 : Byte) &&& statusMask = 0#8 from rfl,
      BitVec.and_zero]

end Sys2Proof.Machine
end

section
/-! SUPPORT. Words written as numbers, words with a nonzero reserved bit, what a check does to each register, the
residue of the CRC (40_crc16.md R63), and what the procedures for RTU frames perform (R64, R65). -/

namespace Sys2Proof

/-! ## Words as numbers (30_encoding.md R43, R44) -/

/-- An operand of at most 16 bits above an op, as a number. -/
theorem operand_or_op_eq_ofNat {n : Nat} (hn : n ≤ 16) (d : BitVec n) (op : Byte) :
    (d.setWidth 32 <<< 16) ||| op.setWidth 32 = BitVec.ofNat 32 (d.toNat * 0x10000 + op.toNat) := by
  have hd : d.toNat < 2 ^ 16 := d.isLt.trans_le (Nat.pow_le_pow_right Nat.two_pos hn)
  have hop : op.toNat < 2 ^ 16 := op.isLt.trans (by decide)
  have hfit : d.toNat * 2 ^ 16 % 2 ^ 32 = d.toNat * 2 ^ 16 := Nat.mod_eq_of_lt (by omega)
  apply BitVec.eq_of_toNat_eq
  calc ((d.setWidth 32 <<< 16) ||| op.setWidth 32).toNat
    _ = d.toNat <<< 16 ||| op.toNat := by
      rw [BitVec.toNat_or, BitVec.toNat_shiftLeft, BitVec.toNat_setWidth, BitVec.toNat_setWidth,
        Nat.mod_eq_of_lt (a := d.toNat) (by omega), Nat.mod_eq_of_lt (a := op.toNat) (by omega), Nat.shiftLeft_eq, hfit]
    _ = d.toNat * 0x10000 + op.toNat := by rw [← Nat.shiftLeft_add_eq_or_of_lt hop, Nat.shiftLeft_eq]
    _ = (BitVec.ofNat 32 (d.toNat * 0x10000 + op.toNat)).toNat := by
      rw [BitVec.toNat_ofNat, Nat.mod_eq_of_lt (by omega)]

/-- `0x00dd00op` (30_encoding.md R43). -/
theorem wordB_eq_ofNat (op d8 : Byte) : wordB op d8 = BitVec.ofNat 32 (d8.toNat * 0x10000 + op.toNat) :=
  operand_or_op_eq_ofNat (by decide) d8 op

/-- `0xhhhh00op` (30_encoding.md R44). -/
theorem wordH_eq_ofNat (op : Byte) (d16 : Half) : wordH op d16 = BitVec.ofNat 32 (d16.toNat * 0x10000 + op.toNat) :=
  operand_or_op_eq_ofNat le_rfl d16 op

/-- A word with the op of a row and a nonzero bit among the row's reserved ones is illegal (30_encoding.md R47). -/
theorem not_legal_of_reserved {m : Mnemonic} {w : Word} (hop : opField w = m.opcode)
    (hz : ¬ m.format.ReservedZero w) : legal w = false := by
  rw [← Bool.not_eq_true, legal_eq_true_iff, exists_decode_iff]
  rintro ⟨m', -, hop', hz'⟩
  obtain rfl : m = m' := Mnemonic.opcode_injective (hop.symm.trans hop')
  exact hz hz'

end Sys2Proof

namespace Sys2Proof.Machine

/-- A word with the op of a row and a nonzero bit among the row's reserved ones has the illegal word's effect alone
(30_encoding.md R51). -/
theorem illegalEffect_of_reserved {m : Mnemonic} {w : Word} (hop : opField w = m.opcode)
    (hz : ¬ m.format.ReservedZero w) (s : State) : IllegalEffect w s :=
  illegalEffect_of_not_legal (not_legal_of_reserved hop hz) s

/-! ## STATUS under register writes, and the registers under a check -/

section Registers

variable (s : State)

@[simp] theorem readStatus_writeCrc (v : Half) : (s.writeCrc v).readStatus = s.readStatus := rfl
@[simp] theorem readStatus_writeLacc (v : Byte) : (s.writeLacc v).readStatus = s.readStatus := rfl
@[simp] theorem readStatus_writeRes (v : Half) : (s.writeRes v).readStatus = s.readStatus := rfl

@[simp] theorem writeCrc_self : s.writeCrc s.crc = s := rfl

@[simp] theorem State.check_crc (agree : Bool) (c : Condition) : (s.check agree c).crc = s.crc := by
  cases agree <;> rfl

@[simp] theorem State.check_lacc (agree : Bool) (c : Condition) : (s.check agree c).lacc = s.lacc := by
  cases agree <;> rfl

/-- A check raises its condition on a mismatch and otherwise leaves STATUS (10_state.md R18). -/
theorem readStatus_check (agree : Bool) (c : Condition) :
    (s.check agree c).readStatus = if agree then s.readStatus else statusRaise s.readStatus c := by
  cases agree with
  | true => rfl
  | false => rw [check_false, readStatus_raise, readStatus_writeRes]; rfl

/-- RES after a check is 0x0001 on a mismatch alone (40_crc16.md R61, 41_lrc8.md R74). -/
theorem check_res_eq_one_iff (agree : Bool) (c : Condition) : (s.check agree c).res = 0x0001#16 ↔ agree = false := by
  cases agree <;> simp [State.check_res]

end Registers

/-! ## The residue (40_crc16.md R63): the inner loop is linear -/

theorem crcShift_eq (c : Half) : crcShift c = (c >>> 1) ^^^ (if c.getLsbD 0 then crcPoly else 0#16) := by
  rw [crcShift]
  cases c.getLsbD 0 with
  | true => rfl
  | false => exact (BitVec.xor_zero).symm

/-- The polynomial enters twice, and cancels, where both registers shift a 1 out. -/
theorem crcShift_xor (c d : Half) : crcShift (c ^^^ d) = crcShift c ^^^ crcShift d := by
  have hpoly (x y : Bool) : (if x ^^ y then crcPoly else 0#16) =
      (if x then crcPoly else 0#16) ^^^ (if y then crcPoly else 0#16) := by cases x <;> cases y <;> decide
  rw [crcShift_eq, crcShift_eq, crcShift_eq, BitVec.getLsbD_xor, hpoly, BitVec.ushiftRight_xor_distrib]
  ac_rfl

theorem crcShifts_xor (n : Nat) (c d : Half) : crcShifts n (c ^^^ d) = crcShifts n c ^^^ crcShifts n d := by
  induction n generalizing c d with
  | zero => rfl
  | succ n ih => rw [crcShifts, crcShifts, crcShifts, crcShift_xor, ih]

theorem crcShifts_zero_register (n : Nat) : crcShifts n 0x0000#16 = 0x0000#16 := by
  induction n with
  | zero => rfl
  | succ n ih => exact ih

/-- Iterations that shift out zeros alone are a shift. -/
theorem crcShifts_of_low_zero (n : Nat) (c : Half) (h : ∀ i < n, c.getLsbD i = false) : crcShifts n c = c >>> n := by
  induction n generalizing c with
  | zero => rfl
  | succ n ih =>
    have hc : crcShift c = c >>> 1 := by rw [crcShift, h 0 n.succ_pos]; rfl
    rw [crcShifts, hc, ih _ fun i hi => ?_, ← BitVec.shiftRight_add, Nat.add_comm]
    rw [BitVec.getLsbD_ushiftRight]
    exact h _ (by omega)

/-- The shift register hands a byte in its upper half down to its lower half. -/
theorem crcShifts_eight_zext16_shiftLeft (b : Byte) : crcShifts 8 (zext16 b <<< 8) = zext16 b := by
  rw [crcShifts_of_low_zero 8 _ fun i hi => by simp [hi]]
  apply BitVec.eq_of_getLsbD_eq
  intro i hi
  by_cases h : i < 8
  · simp [zext16, hi, show 8 + i < 16 by omega]
  · simp [zext16, BitVec.getLsbD_of_ge b i (by omega)]

/-- The two trailer bytes do not overlap in the operand (30_encoding.md R45). -/
theorem trailerOperand_eq_xor (t0 t1 : Byte) : trailerOperand t0 t1 = zext16 t0 ^^^ (zext16 t1 <<< 8) := by
  apply BitVec.eq_of_getLsbD_eq
  intro i hi
  by_cases h : i < 8
  · simp [trailerOperand, zext16, h]
  · simp [trailerOperand, zext16, BitVec.getLsbD_of_ge t0 i (by omega)]

/-- Two fed bytes are 16 iterations on the register with both XORed in: the identity of L16 (40_crc16.md R63). -/
theorem crcFrom_pair (c : Half) (t0 t1 : Byte) : crcFrom c [t0, t1] = crcShifts 16 (c ^^^ trailerOperand t0 t1) :=
  calc crcFrom c [t0, t1]
    _ = crcShifts 8 (crcShifts 8 (c ^^^ zext16 t0) ^^^ zext16 t1) := rfl
    _ = crcShifts 8 (crcShifts 8 (c ^^^ zext16 t0 ^^^ (zext16 t1 <<< 8))) := by
      rw [crcShifts_xor 8 (c ^^^ zext16 t0), crcShifts_eight_zext16_shiftLeft]
    _ = crcShifts 16 (c ^^^ trailerOperand t0 t1) := by
      rw [← crcShifts_add 8 8, BitVec.xor_assoc, ← trailerOperand_eq_xor]

/-- A register fed its own trailer is 0 (40_crc16.md R63). -/
theorem crcFrom_crcTrailer_self (c : Half) : crcFrom c (crcTrailer c) = 0x0000#16 := by
  have hc : trailerOperand (lowByte c) (highByte c) = c := (trailerOperand_eq_iff _ _ c).2 rfl
  rw [crcTrailer, crcFrom_pair, hc, BitVec.xor_self, crcShifts_zero_register]

/-- A range followed by its trailer leaves 0 (40_crc16.md R63). -/
theorem crc16_append_crcTrailer (s : List Byte) : crc16 (s ++ crcTrailer (crc16 s)) = 0x0000#16 := by
  rw [crc16, crcFrom_append]
  exact crcFrom_crcTrailer_self (crc16 s)

/-! ## The procedures for RTU frames (40_crc16.md R64, R65) -/

/-- The host reads a check's verdict off RES (log entry 14). -/
theorem verdictOf_check (agree : Bool) (c : Condition) (s : State) :
    verdictOf (s.check agree c) = if agree then .accepted else .checksumMismatch := by
  cases agree <;> rfl

/-- A procedure that completes is judged by its last state. -/
theorem judge_of_execAll {is : List Instr} {s t : State} (h : execAll is s = .next t) :
    judge (some is) s = some (verdictOf t, t) := by
  rw [judge, h]
  rfl

/-- CRC_CHK after CRC_INIT and a fed range compares with the range's CRC. -/
theorem execAll_crcInit_feedCrc_crcChk (range : List Byte) (d16 : Half) (s : State) :
    execAll ([Instr.crcInit] ++ feedCrc range ++ [Instr.crcChk d16]) s =
      .next ((s.writeCrc (crc16 range)).check (d16 == crc16 range) .crcm) := by
  rw [execAll_crcInit_feedCrc, execAll_singleton, exec_crcChk, State.writeCrc_crc]

/-- A frame of a range that is not empty and two bytes is checked over the range, with the bytes as its trailer. -/
theorem verifyRtu_append (range : List Byte) (t0 t1 : Byte) (h : range ≠ []) : verifyRtu (range ++ [t0, t1]) =
    some ([Instr.crcInit] ++ feedCrc range ++ [Instr.crcChk (trailerOperand t0 t1)]) := by
  have hlen : ¬ (range ++ [t0, t1]).length < 3 := by
    have := List.length_pos_of_ne_nil h
    simp
    omega
  rw [verifyRtu, if_neg hlen]
  simp

end Sys2Proof.Machine
end

section
/-! The statements of 40_crc16.md that are settled here: O5, O7, O48, O50, O4 and O6. -/

namespace Sys2Proof.Machine

/-- Settles O5: CRC_FEED writes CRC alone, and a register fed its own trailer is 16 iterations on 0. -/
theorem crcFeedStepsCrc : Obligations.CrcFeedStepsCrc := by
  refine ⟨fun d8 s => ?effect, fun d8 => ?word, fun w s hop hz => ?illegal, by decide, by decide, by decide,
    by decide, fun s => crcFrom_crcTrailer_self (crc16 s)⟩
  case effect => exact ⟨_, exec_crcFeed s d8, rfl, rfl, rfl, readStatus_writeCrc s _⟩
  case word => exact decode_eq_ok_iff_encode.2 (wordB_eq_ofNat 0x02 d8)
  case illegal => exact illegalEffect_of_reserved (m := .crcFeed) hop (not_and_or.2 hz) s

/-- Settles O7: the check compares its operand with CRC, whatever left CRC there. -/
theorem crcChkComparesTrailer : Obligations.CrcChkComparesTrailer := by
  refine ⟨fun d16 s => ⟨_, exec_crcChk s d16, s.check_crc _ _, s.check_lacc _ _, fun h => ?agree, fun h => ?differ⟩,
    fun d16 => ?word, fun t0 t1 c => ?bytes, fun t0 t1 => ?swapped, fun d16 s => ?afterInit,
    fun range d16 s => ?afterTrailer⟩
  case agree => simp [h, check_true]
  case differ =>
    rw [beq_false_of_ne h]
    exact ⟨rfl, readStatus_check s false .crcm⟩
  case word => exact decode_eq_ok_iff_encode.2 (wordH_eq_ofNat 0x04 d16)
  case bytes => rw [trailerOperand_eq_iff, crcTrailer]; simp
  case swapped =>
    rw [half_ext_iff]
    simp only [lowByte_trailerOperand, highByte_trailerOperand]
    exact ⟨fun ⟨_, h⟩ => h, fun h => ⟨h.symm, h⟩⟩
  case afterInit =>
    refine ⟨_, execAll_crcInit_feedCrc_crcChk [] d16 s, ?_⟩
    rw [check_res_eq_zero_iff, beq_iff_eq]
    rfl
  case afterTrailer =>
    refine ⟨_, execAll_crcInit_feedCrc_crcChk _ d16 s, ?_⟩
    rw [check_res_eq_zero_iff, beq_iff_eq, crc16_append_crcTrailer]

/-- Settles O48: CRC_RD finds the CRC of the address and the PDU. -/
theorem generateRtuGivesTheTrailer : Obligations.GenerateRtuGivesTheTrailer := by
  intro a pdu s
  have hrun : execAll (generateRtu a pdu) s = .next ((s.writeCrc (crc16 (a :: pdu))).writeRes (crc16 (a :: pdu))) := by
    rw [generateRtu, execAll_crcInit_feedCrc, execAll_singleton, exec_crcRd]
    rfl
  exact ⟨_, rfl, hrun, State.writeRes_res _ _, rfl, rfl, rfl⟩

/-- Settles O50: the verdict reads RES, where the check has put whether the trailer is the range's CRC. -/
theorem verifyRtuJudgesTheTrailer : Obligations.VerifyRtuJudgesTheTrailer := by
  refine ⟨fun range t0 t1 s hr => ?long, fun frame s hlen => ?short⟩
  case long =>
    have hproc := verifyRtu_append range t0 t1 hr
    have hrun := execAll_crcInit_feedCrc_crcChk range (trailerOperand t0 t1) s
    refine ⟨(s.writeCrc (crc16 range)).check (trailerOperand t0 t1 == crc16 range) .crcm, hproc, ?verdict, ?res⟩
    case verdict =>
      rw [hproc, judge_of_execAll hrun, verdictOf_check]
      simp only [beq_iff_eq]
    case res => rw [check_res_eq_one_iff, beq_eq_false_iff_ne]
  case short => rw [verifyRtu, if_pos hlen, judge]

/-- Settles O4: CRC_INIT writes CRC alone, so a register that holds 0xFFFF keeps its value. -/
theorem crcInitLoadsInit : Obligations.CrcInitLoadsInit := by
  refine ⟨fun s => ⟨_, exec_crcInit s, rfl, rfl, rfl, readStatus_writeCrc s _⟩, decode_encode .crcInit,
    fun s h => ?already, fun w s hop hz => illegalEffect_of_reserved (m := .crcInit) hop hz s⟩
  case already => rw [exec_crcInit, show crcInitValue = s.crc from h.symm, writeCrc_self]

/-- Settles O6: CRC_RD writes RES alone, with the CRC of the bytes fed so far. -/
theorem crcRdCopiesCrcToRes : Obligations.CrcRdCopiesCrcToRes := by
  refine ⟨fun s => ⟨_, exec_crcRd s, rfl, rfl, rfl, readStatus_writeRes s _, rfl⟩, decode_encode .crcRd,
    fun s => ⟨_, _, execAll_crcInit_feedCrc [] [.crcRd] s, rfl, exec_crcRd _, rfl⟩, ?trailer⟩
  case trailer =>
    have hcrc : crc16 [0x01, 0x03, 0x00, 0x00, 0x00, 0x0A] = 0xCDC5#16 := by decide +kernel
    have hrun := execAll_crcInit_feedCrc [0x01, 0x03, 0x00, 0x00, 0x00, 0x0A] [.crcRd] State.reset
    rw [hcrc] at hrun
    exact ⟨_, hrun, rfl, rfl⟩

end Sys2Proof.Machine
end

section
/-! SUPPORT. The two operations of the LRC-8 function as numbers (41_lrc8.md R68 to R70), the low byte of an 8-bit
result, and what the procedures for ASCII frames perform (R78, R79). -/

namespace Sys2Proof.Machine

/-! ## lrc_sum and lrc_neg as numbers -/

/-- Reducing at each addition gives the full sum, reduced at the end (41_lrc8.md R68). -/
theorem lrcSumFrom_toNat (a : Byte) (s : List Byte) :
    (lrcSumFrom a s).toNat = (a.toNat + (s.map BitVec.toNat).sum) % 256 := by
  induction s generalizing a with
  | nil => exact (Nat.mod_eq_of_lt a.isLt).symm
  | cons b s ih =>
    rw [lrcSumFrom_cons, ih, BitVec.toNat_add, List.map_cons, List.sum_cons, Nat.mod_add_mod, Nat.add_assoc]

theorem lrcSum_toNat (s : List Byte) : (lrcSum s).toNat = (s.map BitVec.toNat).sum % 256 := by
  rw [lrcSum, lrcSumFrom_toNat]
  exact congrArg (· % 256) (Nat.zero_add _)

theorem lrcSum_append_singleton (s : List Byte) (b : Byte) : lrcSum (s ++ [b]) = lrcSum s + b :=
  lrcSumFrom_append 0x00 s [b]

theorem lrcNeg_eq_neg (a : Byte) : lrcNeg a = -a := BitVec.zero_sub a

theorem lrcNeg_toNat (a : Byte) : (lrcNeg a).toNat = (256 - a.toNat) % 256 := BitVec.toNat_sub 0x00#8 a

/-- Negation commutes with reduction modulo 256 (41_lrc8.md R70). -/
theorem lrcNeg_toNat_of_mod {a : Byte} {n : Nat} (h : a.toNat = n % 256) :
    ((lrcNeg a).toNat : Int) = (-(n : Int)) % 256 := by
  rw [lrcNeg_toNat]
  omega

/-- A range followed by its own LRC sums to 0 (41_lrc8.md R74). -/
theorem lrcSum_append_lrc8 (s : List Byte) : lrcSum (s ++ [lrc8 s]) = 0x00#8 := by
  rw [lrcSum_append_singleton, lrc8, lrcNeg_eq_neg]
  exact add_neg_cancel (lrcSum s)

theorem lrcNeg_zero : lrcNeg 0x00#8 = 0x00#8 := rfl

/-! ## An 8-bit value in a register -/

/-- An 8-bit result stands in the low byte (30_encoding.md R45). -/
@[simp] theorem lowByte_zext16 (b : Byte) : lowByte (zext16 b) = b := by
  apply BitVec.eq_of_getLsbD_eq
  intro i hi
  simp [lowByte, zext16, hi, show i < 16 by omega]

theorem zext16_toNat (b : Byte) : (zext16 b).toNat = b.toNat := BitVec.toNat_setWidth_of_le (by decide)

@[simp] theorem writeLacc_self (s : State) : s.writeLacc s.lacc = s := rfl

/-! ## The procedures for ASCII frames (41_lrc8.md R78, R79) -/

/-- LRC_CHK after LRC_INIT and a fed range compares with the range's LRC. -/
theorem execAll_lrcInit_feedLrc_lrcChk (range : List Byte) (d8 : Byte) (s : State) :
    execAll ([Instr.lrcInit] ++ feedLrc range ++ [Instr.lrcChk d8]) s =
      .next ((s.writeLacc (lrcSum range)).check (d8 == lrc8 range) .lrcm) := by
  rw [execAll_lrcInit_feedLrc, execAll_singleton, exec_lrcChk, State.writeLacc_lacc, lrc8]

/-- A frame of a range that is not empty and one byte is checked over the range, with the byte as its trailer. -/
theorem verifyAscii_append (range : List Byte) (b : Byte) (h : range ≠ []) :
    verifyAscii (range ++ [b]) = some ([Instr.lrcInit] ++ feedLrc range ++ [Instr.lrcChk b]) := by
  have hlen : ¬ (range ++ [b]).length < 2 := by
    have := List.length_pos_of_ne_nil h
    simp
    omega
  rw [verifyAscii, if_neg hlen]
  simp

end Sys2Proof.Machine
end

section
/-! The statements of 41_lrc8.md that are settled here: O11, O42, O44, O49, O51, O8, O9, O10 and O43. -/

namespace Sys2Proof.Machine

/-- Settles O11: the check compares its operand with the negated LACC, which is 0 after LRC_INIT and after a range with
its own trailer. -/
theorem lrcChkComparesTrailer : Obligations.LrcChkComparesTrailer := by
  refine ⟨fun d8 s => ⟨_, exec_lrcChk s d8, s.check_crc _ _, s.check_lacc _ _, fun h => ?agree, fun h => ?differ⟩,
    fun d8 => ?word, fun d8 s => ?afterInit, fun range d8 s => ?afterTrailer⟩
  case agree => simp [h, check_true]
  case differ =>
    rw [beq_false_of_ne h]
    exact ⟨rfl, readStatus_check s false .lrcm⟩
  case word => exact decode_eq_ok_iff_encode.2 (wordB_eq_ofNat 0x14 d8)
  case afterInit =>
    refine ⟨_, execAll_lrcInit_feedLrc_lrcChk [] d8 s, ?_⟩
    rw [check_res_eq_zero_iff, beq_iff_eq]
    rfl
  case afterTrailer =>
    have hfed := execAll_lrcInit_feedLrc (range ++ [lrc8 range]) [] s
    rw [List.append_nil, lrcSum_append_lrc8] at hfed
    refine ⟨_, _, hfed, rfl, exec_lrcChk _ d8, ?_⟩
    rw [check_res_eq_zero_iff, beq_iff_eq, State.writeLacc_lacc, lrcNeg_zero]

/-- Settles O42: the fold reduces at each addition, which changes nothing modulo 256. -/
theorem lrcSumIsTheSumModulo256 : Obligations.LrcSumIsTheSumModulo256 := by
  refine ⟨rfl, fun s b => ?step, lrcSum_toNat⟩
  case step => rw [lrcSum_append_singleton, BitVec.toNat_add]

/-- Settles O44: the sum is known modulo 256, and so is its negation. -/
theorem lrcIsTheNegatedSum : Obligations.LrcIsTheNegatedSum :=
  ⟨fun s => ⟨rfl, lrcNeg_toNat_of_mod (lrcSum_toNat s)⟩, rfl⟩

/-- Settles O49: LRC_RD finds the sum of the address and the PDU, and puts its negation in the low byte of RES. -/
theorem generateAsciiGivesTheTrailer : Obligations.GenerateAsciiGivesTheTrailer := by
  intro a pdu s
  have hrun : execAll (generateAscii a pdu) s =
      .next ((s.writeLacc (lrcSum (a :: pdu))).writeRes (zext16 (lrc8 (a :: pdu)))) := by
    rw [generateAscii, execAll_lrcInit_feedLrc, execAll_singleton, exec_lrcRd]
    rfl
  have hlow := lowByte_zext16 (lrc8 (a :: pdu))
  exact ⟨_, rfl, hrun, hlow, congrArg (fun trailer => a :: pdu ++ [trailer]) hlow, rfl, rfl⟩

/-- Settles O51: the verdict reads RES, where the check has put whether the trailer is the range's LRC. -/
theorem verifyAsciiJudgesTheTrailer : Obligations.VerifyAsciiJudgesTheTrailer := by
  refine ⟨fun range b s hr => ?long, fun frame s hlen => ?short⟩
  case long =>
    have hproc := verifyAscii_append range b hr
    have hrun := execAll_lrcInit_feedLrc_lrcChk range b s
    refine ⟨(s.writeLacc (lrcSum range)).check (b == lrc8 range) .lrcm, hproc, ?verdict, ?res⟩
    case verdict =>
      rw [hproc, judge_of_execAll hrun, verdictOf_check]
      simp only [beq_iff_eq]
    case res => rw [check_res_eq_one_iff, beq_eq_false_iff_ne]
  case short => rw [verifyAscii, if_pos hlen, judge]

/-- Settles O8: LRC_INIT writes LACC alone. -/
theorem lrcInitClearsLacc : Obligations.LrcInitClearsLacc :=
  ⟨fun s => ⟨_, exec_lrcInit s, rfl, rfl, rfl, readStatus_writeLacc s _⟩, decode_encode .lrcInit,
    fun _ s hop hz => illegalEffect_of_reserved (m := .lrcInit) hop hz s⟩

/-- Settles O9: LRC_FEED writes LACC alone, and neither 0x00 nor two times 0x80 moves it. -/
theorem lrcFeedAddsModulo256 : Obligations.LrcFeedAddsModulo256 := by
  refine ⟨fun d8 s => ?effect, fun d8 => ?word, fun w s hop hz => ?illegal, fun s => ⟨?zero, ?twice⟩⟩
  case effect => exact ⟨_, exec_lrcFeed s d8, BitVec.toNat_add s.lacc d8, rfl, rfl, readStatus_writeLacc s _⟩
  case word => exact decode_eq_ok_iff_encode.2 (wordB_eq_ofNat 0x12 d8)
  case illegal => exact illegalEffect_of_reserved (m := .lrcFeed) hop (not_and_or.2 hz) s
  case zero =>
    have hsum : lrcSumFrom s.lacc [0x00] = s.lacc := BitVec.add_zero s.lacc
    exact (execAll_feedLrc [0x00] s).trans (by rw [hsum, writeLacc_self])
  case twice =>
    have hsum : lrcSumFrom s.lacc [0x80, 0x80] = s.lacc := by
      rw [lrcSumFrom_eq]
      exact BitVec.add_zero s.lacc
    exact (execAll_feedLrc [0x80, 0x80] s).trans (by rw [hsum, writeLacc_self])

/-- Settles O10: LRC_RD writes RES alone, with an 8-bit result. -/
theorem lrcRdNegatesLaccIntoRes : Obligations.LrcRdNegatesLaccIntoRes := by
  refine ⟨fun s => ⟨_, exec_lrcRd s, ?value, rfl, highByte_zext16 _, rfl, rfl, readStatus_writeRes s _⟩,
    decode_encode .lrcRd⟩
  case value => rw [State.writeRes_res, zext16_toNat, lrcNeg_toNat]

/-- Settles O43: 0 - a is the two's complement, and only a = 0 wraps to 0. -/
theorem lrcNegIsTheTwosComplement : Obligations.LrcNegIsTheTwosComplement := by
  refine ⟨fun a => ⟨lrcNeg_toNat a, (lrcNeg_eq_neg a).trans (BitVec.neg_eq_not_add a)⟩, lrcNeg_zero, rfl,
    fun a h0 _ => ?others⟩
  case others =>
    have hpos : 0 < a.toNat := Nat.pos_of_ne_zero fun h => h0 (BitVec.eq_of_toNat_eq h)
    rw [lrcNeg_toNat, Nat.mod_eq_of_lt (by omega)]

end Sys2Proof.Machine
end

section
/-! SUPPORT. The bits of a zero-extended byte, and STATUS bit by bit under STAT_CLR and in RES (42_control.md R82,
R83). -/

namespace Sys2Proof.Machine

@[simp] theorem zext16_bit (b : Byte) (k : Nat) : (zext16 b).getLsbD k = b.getLsbD k := by
  rw [zext16, BitVec.getLsbD_setWidth, Bool.and_eq_right_iff_imp, decide_eq_true_eq]
  intro hb
  exact (BitVec.lt_of_getLsbD hb).trans (by decide)

variable (s : State)

/-- STATUS as read already lies within 0x07, so R83's last AND leaves it. -/
theorem statusClear_readStatus (m : Byte) : statusClear s.readStatus m = s.readStatus &&& ~~~m := by
  rw [statusClear, State.readStatus, BitVec.and_assoc, BitVec.and_comm (~~~m), ← BitVec.and_assoc,
    BitVec.and_assoc s.status, BitVec.and_self]

theorem readStatus_acknowledge_bit (m : Byte) {k : Nat} (hk : k < 8) :
    (s.acknowledge m).readStatus.getLsbD k = (s.readStatus.getLsbD k && !m.getLsbD k) := by
  rw [readStatus_acknowledge, statusClear_readStatus, BitVec.getLsbD_and, BitVec.getLsbD_not, decide_eq_true hk,
    Bool.true_and]

theorem readStatus_acknowledge_zero : (s.acknowledge 0x00).readStatus = s.readStatus := by
  rw [readStatus_acknowledge, statusClear_readStatus, show ~~~(0x00 : Byte) = BitVec.allOnes 8 from rfl,
    BitVec.and_allOnes]

/-- STATUS in RES leaves bits 15 to 3 at 0 (42_control.md R82). -/
theorem zext16_readStatus_shiftRight : zext16 s.readStatus >>> 3 = 0x0000#16 := by
  apply BitVec.eq_of_getLsbD_eq
  intro k _
  rw [BitVec.getLsbD_ushiftRight, zext16_bit, readStatus_bit_of_ge s (Nat.le_add_right 3 k), BitVec.getLsbD_zero]

end Sys2Proof.Machine
end

section
/-! The statements of 42_control.md that are settled here: O13, O3 and O12. -/

namespace Sys2Proof.Machine

/-- Settles O13: STAT_CLR acknowledges through the mask's bits 2 to 0, which are those of 0x07 in 0xFF and none in
0x00. -/
theorem statClrClearsSelectedBits : Obligations.StatClrClearsSelectedBits := by
  refine ⟨fun d8 s => ?effect, fun d8 => ?word, fun w s hop hz => ?illegal, fun s => ?allOnes, fun s => ?zero⟩
  case effect =>
    exact ⟨_, exec_statClr s d8, readStatus_acknowledge s d8, fun k hk => readStatus_acknowledge_bit s d8 (by omega),
      s.acknowledge_crc d8, s.acknowledge_lacc d8, s.acknowledge_res d8⟩
  case word => exact decode_eq_ok_iff_encode.2 (wordB_eq_ofNat 0x21 d8)
  case illegal => exact illegalEffect_of_reserved (m := .statClr) hop (not_and_or.2 hz) s
  case allOnes =>
    rw [exec_statClr, exec_statClr, ← acknowledge_and_statusMask s 0xFF]
    rfl
  case zero =>
    exact ⟨_, exec_statClr s 0x00, readStatus_acknowledge_zero s, s.acknowledge_crc _, s.acknowledge_lacc _,
      s.acknowledge_res _⟩

/-- Settles O3: NOP is the zero word, and its row has every other bit reserved. -/
theorem nopChangesNothing : Obligations.NopChangesNothing :=
  ⟨exec_nop, decode_encode .nop, fun _ s hop hz => illegalEffect_of_reserved (m := .nop) hop hz s⟩

/-- Settles O12: STAT_RD writes RES alone, with the three bits of STATUS, of which an illegal word has set bit 2. -/
theorem statRdCopiesStatusToRes : Obligations.StatRdCopiesStatusToRes := by
  refine ⟨fun s => ?effect, decode_encode .statRd, fun w s hw => ?afterIllegal⟩
  case effect =>
    exact ⟨_, exec_statRd s, s.writeRes_res _, zext16_readStatus_shiftRight s, s.writeRes_crc _, s.writeRes_lacc _,
      readStatus_writeRes s _⟩
  case afterIllegal =>
    obtain ⟨t, ht, -, -, -, hstatus⟩ := illegalEffect_of_not_legal hw s
    refine ⟨t, _, ht, exec_statRd t, ?_⟩
    rw [State.writeRes_res, zext16_bit, hstatus, BitVec.getLsbD_or, show (0x04#8).getLsbD 2 = true from rfl,
      Bool.or_true]

end Sys2Proof.Machine
end

section
/-! SUPPORT. The condition a word raises in a state, and STATUS after it (60_exceptions.md R89). -/

namespace Sys2Proof.Machine

/-- The condition a command raises in the state `s`: a check that disagrees raises its own, and every other command
raises nothing (60_exceptions.md R89). -/
def condition? (s : State) : Instr → Option Condition
  | .crcChk d16 => if d16 = s.crc then none else some .crcm
  | .lrcChk d8 => if d8 = lrcNeg s.lacc then none else some .lrcm
  | _ => none

/-- The condition a word raises in the state `s`: an illegal word raises ILL, and a legal one what its command raises
(60_exceptions.md R89). -/
def wordCondition? (w : Word) (s : State) : Option Condition :=
  match decode w with
  | .ok i => condition? s i
  | .error _ => some .ill

theorem wordCondition?_ok {w : Word} {i : Instr} (h : decode w = .ok i) (s : State) :
    wordCondition? w s = condition? s i := by
  rw [wordCondition?, h]

theorem wordCondition?_error {w : Word} {e : Illegal} (h : decode w = .error e) (s : State) :
    wordCondition? w s = some .ill := by
  rw [wordCondition?, h]

variable {s t : State}

/-! ## Which words raise a condition -/

theorem wordCondition?_eq_crcm_iff {w : Word} :
    wordCondition? w s = some .crcm ↔ ∃ d16, decode w = .ok (.crcChk d16) ∧ d16 ≠ s.crc := by
  cases h : decode w with
  | ok i => cases i <;> simp [wordCondition?_ok h, condition?]
  | error e => simp [wordCondition?_error h]

theorem wordCondition?_eq_lrcm_iff {w : Word} :
    wordCondition? w s = some .lrcm ↔ ∃ d8, decode w = .ok (.lrcChk d8) ∧ d8 ≠ lrcNeg s.lacc := by
  cases h : decode w with
  | ok i => cases i <;> simp [wordCondition?_ok h, condition?]
  | error e => simp [wordCondition?_error h]

/-- "An illegal word never executes as CHK" (60_exceptions.md R96), and a command never raises ILL. -/
theorem wordCondition?_eq_ill_iff {w : Word} : wordCondition? w s = some .ill ↔ ∃ e, decode w = .error e := by
  cases h : decode w with
  | ok i => cases i <;> simp [wordCondition?_ok h, condition?]
  | error e => simp [wordCondition?_error h]

/-! ## STATUS after a word -/

/-- Raising a condition sets its own bit and no other condition's (60_exceptions.md R94). -/
theorem statusRaise_bit (v : Byte) (c c' : Condition) :
    (statusRaise v c).getLsbD c'.bit = true ↔ v.getLsbD c'.bit = true ∨ c = c' := by
  have hmask : (1#8 <<< c.bit).getLsbD c'.bit = decide (c = c') := by
    cases c <;> cases c' <;> rfl
  rw [statusRaise, BitVec.getLsbD_or, hmask, Bool.or_eq_true, decide_eq_true_eq]

/-- A command other than STAT_CLR raises in STATUS its condition, if it has one, and does nothing else there. -/
theorem exec_readStatus {i : Instr} (hclr : ∀ d8, i ≠ .statClr d8) (ht : exec i s = .next t) :
    t.readStatus = (condition? s i).elim s.readStatus (statusRaise s.readStatus) := by
  cases i with
  | statClr d8 => exact absurd rfl (hclr d8)
  | crcChk d16 =>
    cases ht
    rw [readStatus_check, condition?]
    by_cases h : d16 = s.crc <;> simp [h]
  | lrcChk d8 =>
    cases ht
    rw [readStatus_check, condition?]
    by_cases h : d8 = lrcNeg s.lacc <;> simp [h]
  | nop | crcInit | crcFeed _ | crcRd | lrcInit | lrcFeed _ | lrcRd | statRd => cases ht; rfl

/-- A word other than STAT_CLR raises in STATUS its condition, if it has one, and does nothing else there. -/
theorem perform_readStatus {w : Word} (hclr : ∀ d8, decode w ≠ .ok (.statClr d8)) (ht : perform w s = .next t) :
    t.readStatus = (wordCondition? w s).elim s.readStatus (statusRaise s.readStatus) := by
  obtain ⟨i, hi, hrun⟩ | ⟨e, he, hrun⟩ := perform_cases w s
  · rw [wordCondition?_ok hi]
    exact exec_readStatus (fun d8 h => hclr d8 (h ▸ hi)) (hrun ▸ ht)
  · cases hrun.symm.trans ht
    rw [wordCondition?_error he, readStatus_raise]
    rfl

/-- After a word other than STAT_CLR a condition's bit is 1 exactly when it was 1 or the word raises that condition. -/
theorem perform_readStatus_bit_iff {w : Word} (hclr : ∀ d8, decode w ≠ .ok (.statClr d8))
    (ht : perform w s = .next t) (c : Condition) :
    t.readStatus.getLsbD c.bit = true ↔ s.readStatus.getLsbD c.bit = true ∨ wordCondition? w s = some c := by
  rw [perform_readStatus hclr ht]
  cases wordCondition? w s with
  | none => simp
  | some c' => simp [statusRaise_bit]

/-- STAT_CLR raises no bit of STATUS (42_control.md R83). -/
theorem readStatus_bit_of_acknowledge {m : Byte} {k : Nat} (h : (s.acknowledge m).readStatus.getLsbD k = true) :
    s.readStatus.getLsbD k = true := by
  rw [readStatus_acknowledge, statusClear_readStatus, BitVec.getLsbD_and, Bool.and_eq_true] at h
  exact h.1

end Sys2Proof.Machine
end

section
/-! The statement of 60_exceptions.md that is settled here: O34. -/

namespace Sys2Proof.Machine

/-- Settles O34: STATUS gains the bit of the word's condition, and each of the three conditions belongs to the words
that the table names. -/
theorem conditionsAreRaisedAndRecorded : Obligations.ConditionsAreRaisedAndRecorded := by
  intro w s
  obtain ⟨t, ht⟩ := perform_total s w
  refine ⟨t, ht, fun hclr => ⟨?crcm, ?lrcm, ?ill⟩, ?statClr, ?crcmRes, ?lrcmRes, ?illRes⟩
  case crcm => exact (perform_readStatus_bit_iff hclr ht .crcm).trans (or_congr_right wordCondition?_eq_crcm_iff)
  case lrcm => exact (perform_readStatus_bit_iff hclr ht .lrcm).trans (or_congr_right wordCondition?_eq_lrcm_iff)
  case ill => exact (perform_readStatus_bit_iff hclr ht .ill).trans (or_congr_right wordCondition?_eq_ill_iff)
  case statClr =>
    intro d8 h k
    cases (perform_next_iff_exec h).1 ht
    exact readStatus_bit_of_acknowledge
  case crcmRes =>
    rintro ⟨d16, h, hne⟩
    cases (perform_next_iff_exec h).1 ht
    rw [check_res_eq_one_iff, beq_false_of_ne hne]
  case lrcmRes =>
    rintro ⟨d8, h, hne⟩
    cases (perform_next_iff_exec h).1 ht
    rw [check_res_eq_one_iff, beq_false_of_ne hne]
  case illRes =>
    rintro ⟨e, he⟩
    cases (perform_error he s).symm.trans ht
    exact s.raise_res .ill

end Sys2Proof.Machine
end

section
/-! SUPPORT. Two commands in a row: the second starts from the state the first has left (20_memory.md R39), and the
STATUS bit that a check has set is in RES after STAT_RD. -/

namespace Sys2Proof.Machine

variable {s t : State}

theorem execAll_pair {i : Instr} (ht : exec i s = .next t) (j : Instr) : execAll [i, j] s = exec j t := by
  rw [execAll_cons, ht, andThen_next, execAll_singleton]

/-- A check that disagrees leaves its condition's bit set (60_exceptions.md R94). -/
theorem readStatus_check_false_bit (s : State) (c : Condition) :
    (s.check false c).readStatus.getLsbD c.bit = true := by
  rw [readStatus_check]
  exact (statusRaise_bit s.readStatus c c).2 (.inr rfl)

/-- STAT_RD right after a check that disagrees shows the check's condition in RES (42_control.md R82). -/
theorem execAll_statRd_bit_of_check_false {i : Instr} {c : Condition} (hchk : exec i s = .next (s.check false c)) :
    ∃ u, execAll [i, .statRd] s = .next u ∧ u.res.getLsbD c.bit = true := by
  refine ⟨_, (execAll_pair hchk .statRd).trans (exec_statRd _), ?_⟩
  rw [State.writeRes_res, zext16_bit, readStatus_check_false_bit]

end Sys2Proof.Machine
end

section
/-! The statement of 70_reset_and_hazards.md that is settled here: O36. -/

namespace Sys2Proof.Machine

/-- Settles O36: the second command runs from the state that the first has left, and the response port is a view of
the registers. -/
theorem noTimingHazards : Obligations.NoTimingHazards := by
  refine ⟨fun d8 s => ?crcRd, fun d8 s => ?lrcRd, fun d8 d16 s => ?crcChk, fun d8 e8 s => ?lrcChk,
    fun d16 s hne => ?crcStat, fun d8 s hne => ?lrcStat⟩
  case crcRd =>
    have hfed := exec_crcFeed s d8
    exact ⟨_, (execAll_pair hfed .crcRd).trans (exec_crcRd _), State.writeRes_res _ _, State.response_res _⟩
  case lrcRd =>
    have hfed := exec_lrcFeed s d8
    exact ⟨_, (execAll_pair hfed .lrcRd).trans (exec_lrcRd _), State.writeRes_res _ _⟩
  case crcChk =>
    have hfed := exec_crcFeed s d8
    refine ⟨_, (execAll_pair hfed (.crcChk d16)).trans (exec_crcChk _ d16), ?_⟩
    rw [check_res_eq_zero_iff, beq_iff_eq, State.writeCrc_crc]
  case lrcChk =>
    have hfed := exec_lrcFeed s d8
    refine ⟨_, (execAll_pair hfed (.lrcChk e8)).trans (exec_lrcChk _ e8), ?_⟩
    rw [check_res_eq_zero_iff, beq_iff_eq, State.writeLacc_lacc]
  case crcStat =>
    have hchk := exec_crcChk s d16
    rw [beq_false_of_ne hne] at hchk
    exact execAll_statRd_bit_of_check_false hchk
  case lrcStat =>
    have hchk := exec_lrcChk s d8
    rw [beq_false_of_ne hne] at hchk
    exact execAll_statRd_bit_of_check_false hchk

end Sys2Proof.Machine
end

section
/-! SUPPORT. A word's operand bytes as the two bytes of a halfword, and the operand fields of a decoded word
(30_encoding.md R45). -/

namespace Sys2Proof.Machine

theorem half_toNat (c : Half) : c.toNat = (lowByte c).toNat + 256 * (highByte c).toNat := by
  have := c.isLt
  simp only [lowByte, highByte, BitVec.extractLsb'_toNat, Nat.shiftRight_eq_div_pow]
  omega

end Sys2Proof.Machine

namespace Sys2Proof

open Machine (lowByte highByte half_toNat)

/-- The operand of a format-H word has its low byte in w[23:16] and its high byte in w[31:24]. -/
theorem d8Field_hi8Field_wordH (op : Byte) (d16 : Half) :
    d8Field (wordH op d16) = lowByte d16 ∧ hi8Field (wordH op d16) = highByte d16 := by
  have hword := d16Field_toNat (wordH op d16)
  have hbytes := half_toNat d16
  have := (d8Field (wordH op d16)).isLt
  have := (lowByte d16).isLt
  rw [d16Field_wordH] at hword
  simp only [← BitVec.toNat_inj]
  omega

/-- A byte operand that a word decodes to is w[23:16]. -/
theorem operand_eq_d8Field {w : Word} {i : Instr} {d8 : Byte} (hw : decode w = .ok i) (hf : i.mnemonic.format = .b)
    (hi : i.operand = some d8.toNat) : d8 = d8Field w := by
  obtain ⟨-, -, hfield⟩ := decode_eq_ok_iff.1 hw
  rw [hf, hi] at hfield
  exact BitVec.eq_of_toNat_eq (Option.some.inj hfield)

/-- A halfword operand that a word decodes to is w[31:16]. -/
theorem operand_eq_d16Field {w : Word} {i : Instr} {d16 : Half} (hw : decode w = .ok i) (hf : i.mnemonic.format = .h)
    (hi : i.operand = some d16.toNat) : d16 = d16Field w := by
  obtain ⟨-, -, hfield⟩ := decode_eq_ok_iff.1 hw
  rw [hf, hi] at hfield
  exact BitVec.eq_of_toNat_eq (Option.some.inj hfield)

theorem legal_eq_false_iff (w : Word) : legal w = false ↔ ∃ e, decode w = .error e := by
  refine ⟨exists_decode_error_of_not_legal, fun ⟨e, he⟩ => ?_⟩
  rw [← Bool.not_eq_true, legal_eq_true_iff, he]
  rintro ⟨i, hi⟩
  cases hi

end Sys2Proof
end

section
/-! The statements of 30_encoding.md about the word of a command that are settled here: O15, O16, O19 and O20. -/

namespace Sys2Proof.Machine

/-- Settles O15: the fields of the encoded word are the command's row and operand. -/
theorem decodeEncodeRoundTrip : Obligations.DecodeEncodeRoundTrip := decode_encode

/-- Settles O16: op, reserved bits and operand field are the whole word, and decoding fixes all three. -/
theorem encodeDecodeRoundTrip : Obligations.EncodeDecodeRoundTrip := fun _ _ => decode_eq_ok_iff_encode.1

/-- Settles O19: the decoder hands on the field itself, and the two bytes of CRC_CHK's operand do not overlap. -/
theorem operandsAreTakenUnchanged : Obligations.OperandsAreTakenUnchanged := by
  refine ⟨fun w d8 h => ?byte, fun w d16 h => operand_eq_d16Field h rfl rfl, zext16_toNat,
    fun t0 t1 => ⟨?value, ?first, ?second⟩⟩
  case byte =>
    obtain h | h | h | h := h
    all_goals exact operand_eq_d8Field h rfl rfl
  case value => rw [half_toNat, lowByte_trailerOperand, highByte_trailerOperand]
  case first => exact (d8Field_hi8Field_wordH _ _).1.trans (lowByte_trailerOperand t0 t1)
  case second => exact (d8Field_hi8Field_wordH _ _).2.trans (highByte_trailerOperand t0 t1)

/-- Settles O20: each legal word is the encoding of its command, and the four others are looked up. -/
theorem writtenWordsDecode : Obligations.WrittenWordsDecode :=
  ⟨decode_encode .nop, decode_encode .crcInit, decode_encode (.crcFeed 0xFF), decode_encode .crcRd,
    decode_encode (.crcChk 0xABCD), decode_encode .lrcInit, decode_encode (.lrcFeed 0x80), decode_encode .lrcRd,
    decode_encode (.lrcChk 0xF2), decode_encode .statRd, decode_encode (.statClr 0x01), by decide, by decide,
    by decide, by decide⟩

end Sys2Proof.Machine
end

section
/-! SUPPORT. The host's program and index stand apart from the registers: no command reads or writes them
(20_memory.md R40, 42_control.md R84), so a run of a program is its words performed one after the other. -/

namespace Sys2Proof.Machine

/-- The registers of a state with the program and the index of another host (log entry 1). -/
def State.withHost (p : List Word) (k : Nat) (s : State) : State := { s with prog := p, index := k }

@[simp] theorem State.withHost_prog (p : List Word) (k : Nat) (s : State) : (s.withHost p k).prog = p := rfl
@[simp] theorem State.withHost_index (p : List Word) (k : Nat) (s : State) : (s.withHost p k).index = k := rfl

theorem State.withHost_self (s : State) : s.withHost s.prog s.index = s := rfl
theorem State.advance_withHost (p : List Word) (k : Nat) (s : State) :
    (s.withHost p k).advance = s.withHost p (k + 1) := rfl

variable {s t : State}

/-! ## Words under another host -/

theorem check_withHost (agree : Bool) (c : Condition) (p : List Word) (k : Nat) (s : State) :
    (s.withHost p k).check agree c = (s.check agree c).withHost p k := by
  cases agree <;> rfl

theorem exec_withHost {i : Instr} (ht : exec i s = .next t) (p : List Word) (k : Nat) :
    exec i (s.withHost p k) = .next (t.withHost p k) := by
  cases i with
  | crcChk _ | lrcChk _ => cases ht; exact congrArg Host.Outcome.next (check_withHost _ _ p k s)
  | nop | crcInit | crcFeed _ | crcRd | lrcInit | lrcFeed _ | lrcRd | statRd | statClr _ => cases ht; rfl

theorem perform_withHost {w : Word} (ht : perform w s = .next t) (p : List Word) (k : Nat) :
    perform w (s.withHost p k) = .next (t.withHost p k) := by
  cases hw : decode w with
  | ok i => exact (perform_ok hw _).trans (exec_withHost ((perform_next_iff_exec hw).1 ht) p k)
  | error e =>
    cases (perform_error hw s).symm.trans ht
    exact perform_error hw _

/-- No word touches the host's program or its index. -/
theorem perform_keeps_host {w : Word} (ht : perform w s = .next t) : t.prog = s.prog ∧ t.index = s.index := by
  have hself := perform_withHost ht s.prog s.index
  rw [State.withHost_self, ht] at hself
  injection hself with hself
  rw [hself]
  exact ⟨rfl, rfl⟩

/-! ## Reset -/

@[simp] theorem readStatus_platformReset (s : State) : s.platformReset.readStatus = 0x00#8 := by
  rw [State.readStatus, State.platformReset_status]
  rfl

/-! ## Steps -/

theorem step_of_fetch {w : Word} (h : s.fetch = some w) : step s = perform w s.advance := by
  rw [step, h]

theorem step_of_fetch_none (h : s.fetch = none) : step s = .fault .endOfRun := by
  rw [step, h]

/-- A step that answers a next state performed a word inside the program (42_control.md R87). -/
theorem step_next_inv (h : step s = .next t) :
    s.index < s.prog.length ∧ t.prog = s.prog ∧ t.index = s.index + 1 ∧ ∃ w, perform w s.advance = .next t := by
  obtain ⟨w, hw, hstep⟩ | ⟨-, hstep⟩ := step_cases s
  · rw [hstep] at h
    obtain ⟨hprog, hindex⟩ := perform_keeps_host h
    exact ⟨(List.getElem?_eq_some_iff.1 hw).1, hprog, hindex, w, h⟩
  · cases hstep.symm.trans h

/-! ## Lists of words -/

theorem performAll_cons_of_perform {w : Word} (ht : perform w s = .next t) (ws : List Word) :
    performAll (w :: ws) s = performAll ws t := by
  rw [performAll_cons, ht, andThen_next]

theorem performAll_total (ws : List Word) (s : State) : ∃ t, performAll ws s = .next t := by
  induction ws generalizing s with
  | nil => exact ⟨s, rfl⟩
  | cons w ws ih =>
    obtain ⟨t, ht⟩ := perform_total s w
    rw [performAll_cons_of_perform ht]
    exact ih t

/-! ## Runs of the machine -/

theorem run_succ_of_step (n : Nat) (h : step s = .next t) : Host.Core.run core (n + 1) s = Host.Core.run core n t := by
  have hcore : core.step s = .next t := h
  simp only [Host.Core.run, hcore]

theorem run_succ_of_stop (n : Nat) {r : Fault} (h : step s = .fault r) : Host.Core.run core (n + 1) s = .fault r := by
  have hcore : core.step s = .fault r := h
  simp only [Host.Core.run, hcore]

/-- A run goes on from the state its first steps have left. -/
theorem run_add_of_run (m n : Nat) (h : Host.Core.run core m s = .next t) :
    Host.Core.run core (m + n) s = Host.Core.run core n t := by
  induction m generalizing s with
  | zero =>
    cases h
    rw [Nat.zero_add]
  | succ m ih =>
    obtain ⟨w, -, hstep⟩ | ⟨-, hstep⟩ := step_cases s
    · obtain ⟨u, hu⟩ := perform_total s.advance w
      rw [hu] at hstep
      rw [run_succ_of_step m hstep] at h
      rw [Nat.add_right_comm, run_succ_of_step _ hstep, ih h]
    · cases (run_succ_of_stop m hstep).symm.trans h

/-- Steps from inside a program perform the words that are left, in order (42_control.md R87). -/
theorem run_eq_performAll (pre ws : List Word) (ht : performAll ws s = .next t) :
    Host.Core.run core ws.length (s.withHost (pre ++ ws) pre.length) =
      .next (t.withHost (pre ++ ws) (pre ++ ws).length) := by
  induction ws generalizing pre s with
  | nil =>
    cases ht
    rw [List.append_nil]
    rfl
  | cons w ws ih =>
    obtain ⟨u, hu⟩ := perform_total s w
    rw [performAll_cons_of_perform hu] at ht
    have hfetch : (s.withHost (pre ++ w :: ws) pre.length).fetch = some w := by simp [State.fetch]
    have hstep : step (s.withHost (pre ++ w :: ws) pre.length) =
        .next (u.withHost (pre ++ w :: ws) (pre.length + 1)) := by
      rw [step_of_fetch hfetch, State.advance_withHost]
      exact perform_withHost hu _ _
    have hrest := ih (pre ++ [w]) ht
    rw [List.append_assoc, List.singleton_append, List.length_append, List.length_singleton] at hrest
    rw [List.length_cons, run_succ_of_step _ hstep, hrest]

/-! ## ILL (42_control.md R88) -/

/-- A word that is no STAT_CLR with bit 2 in its mask leaves ILL at 1 exactly when it was 1 or the word is illegal. -/
theorem perform_ill_iff {w : Word} (hclr : ∀ i, decode w = .ok i → clearsIll i = false) (ht : perform w s = .next t) :
    t.readStatus.getLsbD 2 = true ↔ s.readStatus.getLsbD 2 = true ∨ legal w = false := by
  rw [legal_eq_false_iff]
  by_cases hstat : ∃ d8, decode w = .ok (.statClr d8)
  · obtain ⟨d8, hw⟩ := hstat
    cases (perform_next_iff_exec hw).1 ht
    have hmask : d8.getLsbD 2 = false := hclr _ hw
    rw [readStatus_acknowledge_bit s d8 (by decide), hmask, hw]
    simp only [Bool.not_false, Bool.and_true, reduceCtorEq, exists_false, or_false]
  · exact (perform_readStatus_bit_iff (not_exists.1 hstat) ht .ill).trans (or_congr_right wordCondition?_eq_ill_iff)

/-- Over a program that keeps ILL, the bit collects whether a word was illegal. -/
theorem performAll_ill_iff {p : List Word} (hp : KeepsIll p) (ht : performAll p s = .next t) :
    t.readStatus.getLsbD 2 = true ↔ s.readStatus.getLsbD 2 = true ∨ ∃ w ∈ p, legal w = false := by
  induction p generalizing s with
  | nil =>
    cases ht
    simp
  | cons w p ih =>
    obtain ⟨hw, hrest⟩ := List.forall_mem_cons.1 hp
    obtain ⟨u, hu⟩ := perform_total s w
    rw [performAll_cons_of_perform hu] at ht
    rw [ih hrest ht, perform_ill_iff hw hu, List.exists_mem_cons_iff, or_assoc]

end Sys2Proof.Machine
end

section
/-! The statements about steps, runs and the invariant that are settled here: O26, O22, O24, O25, O21, O23, O27 and
O2. -/

namespace Sys2Proof.Machine

/-- Settles O26: a word keeps the reserved bits of STATUS at 0, and a step moves the index on by 1 from inside the
program. -/
theorem stepKeepsTheInvariant : Obligations.StepKeepsTheInvariant := by
  refine ⟨fun s t ⟨hstatus, _⟩ hstep => ?step, fun s ⟨_, hindex⟩ => ⟨?reset, hindex⟩⟩
  case step =>
    obtain ⟨hlt, hprog, hindex, w, hw⟩ := step_next_inv hstep
    refine ⟨perform_keeps_reserved_zero hw hstatus, ?_⟩
    rw [hprog, hindex]
    exact hlt
  case reset => rw [State.platformReset_status]; rfl

/-- Settles O22: a word is a command or illegal, and neither has a case without a next state. -/
theorem everyWordCompletes : Obligations.EveryWordCompletes := by
  intro w s
  obtain ⟨t, ht⟩ := perform_total s w
  exact ⟨t, ht, perform_keeps_host ht⟩

/-- Settles O24: the steps perform the words under the host's program, and the index then stands at its end. -/
theorem runPerformsEveryWordAndEnds : Obligations.RunPerformsEveryWordAndEnds := by
  intro p s
  obtain ⟨u, hu⟩ := performAll_total p s
  have hrun : Host.Core.run core p.length (s.load p) = .next (u.withHost p p.length) := run_eq_performAll [] p hu
  refine ⟨_, u, hrun, hu, rfl, rfl, rfl, rfl, rfl, rfl, ?stop⟩
  case stop =>
    have hend : step (u.withHost p p.length) = .fault .endOfRun :=
      step_of_fetch_none ((fetch_eq_none_iff _).2 le_rfl)
    exact (run_add_of_run p.length 1 hrun).trans (run_succ_of_stop 0 hend)

/-- Settles O25: where no STAT_CLR can hide it, ILL collects whether a word was illegal. -/
theorem illShowsWhetherAnIllegalWordWasIssued : Obligations.IllShowsWhetherAnIllegalWordWasIssued := by
  intro p s t hs hp ht
  rw [← Bool.not_eq_true, performAll_ill_iff hp ht, hs]
  simp

/-- Settles O21: a step is the word at the index, performed after the index has moved on. -/
theorem stepPerformsTheDecodedWord : Obligations.StepPerformsTheDecodedWord := by
  refine ⟨fun s w i hw hi => ?legal, fun s w e hw he => ⟨?effect, step_of_fetch hw⟩,
    fun s => ⟨s.response_res, s.response_status⟩⟩
  case legal => exact (step_of_fetch hw).trans (perform_ok hi s.advance)
  case effect => exact illegalEffect_of_not_legal ((legal_eq_false_iff w).2 ⟨e, he⟩) s.advance

/-- Settles O23: there is a word to fetch exactly inside the program, and every word has a next state. -/
theorem stepStopsOnlyAtTheEndOfTheProgram : Obligations.StepStopsOnlyAtTheEndOfTheProgram := by
  refine ⟨fun s hlt => ?inside, fun s hle => step_of_fetch_none ((fetch_eq_none_iff s).2 hle)⟩
  case inside =>
    obtain ⟨t, ht⟩ := perform_total s.advance s.prog[s.index]
    have hstep : step s = .next t := (step_of_fetch (List.getElem?_eq_getElem hlt)).trans ht
    obtain ⟨-, hprog, hindex, -⟩ := step_next_inv hstep
    exact ⟨t, hstep, hindex, hprog⟩

/-- Settles O27: reset has STATUS 0 and the empty program, and a program is taken up at its first word. -/
theorem resetMeetsTheInvariant : Obligations.ResetMeetsTheInvariant :=
  ⟨⟨rfl, le_rfl⟩, fun p _ ⟨hstatus, _⟩ => ⟨hstatus, Nat.zero_le p.length⟩⟩

/-- Settles O2: a platform reset takes the registers of `State.reset` and the host of the state. -/
theorem platformResetFromEveryState : Obligations.PlatformResetFromEveryState := fun s =>
  ⟨s.platformReset_crc, s.platformReset_lacc, s.platformReset_res, readStatus_platformReset s, s.platformReset_prog,
    s.platformReset_index⟩

end Sys2Proof.Machine
end

section
/-! SUPPORT. The register read and write table (10_state.md R26): which commands leave a register, and which registers
a command's own depend on. -/

namespace Sys2Proof.Machine

variable {s s' t t' : State}

/-! ## The bytes of a command list -/

theorem crcFed_cons (i : Instr) (is : List Instr) : crcFed (i :: is) = crcFed [i] ++ crcFed is :=
  List.filterMap_append (l := [i])

theorem lrcFed_cons (i : Instr) (is : List Instr) : lrcFed (i :: is) = lrcFed [i] ++ lrcFed is :=
  List.filterMap_append (l := [i])

@[simp] theorem crcFed_append (is js : List Instr) : crcFed (is ++ js) = crcFed is ++ crcFed js := List.filterMap_append

@[simp] theorem lrcFed_append (is js : List Instr) : lrcFed (is ++ js) = lrcFed is ++ lrcFed js := List.filterMap_append

@[simp] theorem crcFed_feedCrc (bs : List Byte) : crcFed (feedCrc bs) = bs := by
  rw [crcFed, feedCrc, List.filterMap_map]
  exact List.filterMap_some

@[simp] theorem lrcFed_feedLrc (bs : List Byte) : lrcFed (feedLrc bs) = bs := by
  rw [lrcFed, feedLrc, List.filterMap_map]
  exact List.filterMap_some

/-! ## CRC and LACC under one command -/

/-- Every command but CRC_INIT leaves in CRC the register with the bytes it feeds. -/
theorem exec_crc {i : Instr} (hi : i ≠ .crcInit) (ht : exec i s = .next t) : t.crc = crcFrom s.crc (crcFed [i]) := by
  cases i with
  | crcInit => exact absurd rfl hi
  | crcChk _ => cases ht; exact s.check_crc _ _
  | lrcChk _ => cases ht; exact s.check_crc _ _
  | nop | crcFeed _ | crcRd | lrcInit | lrcFeed _ | lrcRd | statRd | statClr _ => cases ht; rfl

/-- Every command but LRC_INIT leaves in LACC the sum with the bytes it feeds. -/
theorem exec_lacc {i : Instr} (hi : i ≠ .lrcInit) (ht : exec i s = .next t) :
    t.lacc = lrcSumFrom s.lacc (lrcFed [i]) := by
  cases i with
  | lrcInit => exact absurd rfl hi
  | crcChk _ => cases ht; exact s.check_lacc _ _
  | lrcChk _ => cases ht; exact s.check_lacc _ _
  | nop | crcInit | crcFeed _ | crcRd | lrcFeed _ | lrcRd | statRd | statClr _ => cases ht; rfl

theorem crcFed_singleton_of_ne {i : Instr} (hi : ∀ d8, i ≠ .crcFeed d8) : crcFed [i] = [] := by
  cases i with
  | crcFeed d8 => exact absurd rfl (hi d8)
  | nop | crcInit | crcRd | crcChk _ | lrcInit | lrcFeed _ | lrcRd | lrcChk _ | statRd | statClr _ => rfl

theorem lrcFed_singleton_of_ne {i : Instr} (hi : ∀ d8, i ≠ .lrcFeed d8) : lrcFed [i] = [] := by
  cases i with
  | lrcFeed d8 => exact absurd rfl (hi d8)
  | nop | crcInit | crcFeed _ | crcRd | crcChk _ | lrcInit | lrcRd | lrcChk _ | statRd | statClr _ => rfl

theorem exec_crc_of_ne {i : Instr} (hinit : i ≠ .crcInit) (hfeed : ∀ d8, i ≠ .crcFeed d8)
    (ht : exec i s = .next t) : t.crc = s.crc := by
  rw [exec_crc hinit ht, crcFed_singleton_of_ne hfeed, crcFrom_nil]

theorem exec_lacc_of_ne {i : Instr} (hinit : i ≠ .lrcInit) (hfeed : ∀ d8, i ≠ .lrcFeed d8)
    (ht : exec i s = .next t) : t.lacc = s.lacc := by
  rw [exec_lacc hinit ht, lrcFed_singleton_of_ne hfeed, lrcSumFrom_nil]

/-- A command that neither checks nor clears leaves STATUS as it is held. -/
theorem exec_status_of_ne {i : Instr} (hcrc : ∀ d16, i ≠ .crcChk d16) (hlrc : ∀ d8, i ≠ .lrcChk d8)
    (hclr : ∀ d8, i ≠ .statClr d8) (ht : exec i s = .next t) : t.status = s.status := by
  cases i with
  | crcChk d16 => exact absurd rfl (hcrc d16)
  | lrcChk d8 => exact absurd rfl (hlrc d8)
  | statClr d8 => exact absurd rfl (hclr d8)
  | nop | crcInit | crcFeed _ | crcRd | lrcInit | lrcFeed _ | lrcRd | statRd => cases ht; rfl

/-! ## The other unit's register (10_state.md R27) -/

theorem check_writeLacc (agree : Bool) (c : Condition) (v : Byte) (s : State) :
    (s.writeLacc v).check agree c = (s.check agree c).writeLacc v := by
  cases agree <;> rfl

theorem check_writeCrc (agree : Bool) (c : Condition) (v : Half) (s : State) :
    (s.writeCrc v).check agree c = (s.check agree c).writeCrc v := by
  cases agree <;> rfl

/-- A CRC command does the same whatever LACC holds, and leaves it. -/
theorem exec_writeLacc_of_usesCrcUnit {i : Instr} (hi : usesCrcUnit i = true) (ht : exec i s = .next t) (v : Byte) :
    exec i (s.writeLacc v) = .next (t.writeLacc v) := by
  cases i with
  | crcChk _ => cases ht; exact congrArg Host.Outcome.next (check_writeLacc _ _ v s)
  | crcInit | crcFeed _ | crcRd => cases ht; rfl
  | nop | lrcInit | lrcFeed _ | lrcRd | lrcChk _ | statRd | statClr _ => cases hi

/-- An LRC command does the same whatever CRC holds, and leaves it. -/
theorem exec_writeCrc_of_usesLrcUnit {i : Instr} (hi : usesLrcUnit i = true) (ht : exec i s = .next t) (v : Half) :
    exec i (s.writeCrc v) = .next (t.writeCrc v) := by
  cases i with
  | lrcChk _ => cases ht; exact congrArg Host.Outcome.next (check_writeCrc _ _ v s)
  | lrcInit | lrcFeed _ | lrcRd => cases ht; rfl
  | nop | crcInit | crcFeed _ | crcRd | crcChk _ | statRd | statClr _ => cases hi

/-! ## Command lists -/

theorem execAll_cons_of_exec {i : Instr} (ht : exec i s = .next t) (is : List Instr) :
    execAll (i :: is) s = execAll is t := by
  rw [execAll_cons, ht, andThen_next]

theorem execAll_append_of_execAll {is : List Instr} (ht : execAll is s = .next t) (js : List Instr) :
    execAll (is ++ js) s = execAll js t := by
  rw [execAll_append, ht, andThen_next]

theorem execAll_total (is : List Instr) (s : State) : ∃ t, execAll is s = .next t := by
  induction is generalizing s with
  | nil => exact ⟨s, rfl⟩
  | cons i is ih =>
    obtain ⟨t, ht⟩ := exec_total s i
    rw [execAll_cons_of_exec ht]
    exact ih t

/-- Without a CRC_INIT, CRC is the register with all bytes fed to it, whatever stands between. -/
theorem execAll_crc {is : List Instr} (his : ∀ i ∈ is, i ≠ .crcInit) (ht : execAll is s = .next t) :
    t.crc = crcFrom s.crc (crcFed is) := by
  induction is generalizing s with
  | nil => cases ht; rfl
  | cons i is ih =>
    obtain ⟨hi, hrest⟩ := List.forall_mem_cons.1 his
    obtain ⟨u, hu⟩ := exec_total s i
    rw [execAll_cons_of_exec hu] at ht
    rw [ih hrest ht, exec_crc hi hu, crcFed_cons i is, crcFrom_append]

/-- Without an LRC_INIT, LACC is the sum with all bytes fed to it, whatever stands between. -/
theorem execAll_lacc {is : List Instr} (his : ∀ i ∈ is, i ≠ .lrcInit) (ht : execAll is s = .next t) :
    t.lacc = lrcSumFrom s.lacc (lrcFed is) := by
  induction is generalizing s with
  | nil => cases ht; rfl
  | cons i is ih =>
    obtain ⟨hi, hrest⟩ := List.forall_mem_cons.1 his
    obtain ⟨u, hu⟩ := exec_total s i
    rw [execAll_cons_of_exec hu] at ht
    rw [ih hrest ht, exec_lacc hi hu, lrcFed_cons i is, lrcSumFrom_append]

/-- RES keeps its value through commands that do not write it. -/
theorem execAll_res_of_not_writesRes {is : List Instr} (his : ∀ i ∈ is, writesRes i = false)
    (ht : execAll is s = .next t) : t.res = s.res := by
  induction is generalizing s with
  | nil => cases ht; rfl
  | cons i is ih =>
    obtain ⟨hi, hrest⟩ := List.forall_mem_cons.1 his
    obtain ⟨u, hu⟩ := exec_total s i
    rw [execAll_cons_of_exec hu] at ht
    rw [ih hrest ht, exec_res_of_not_writesRes hi hu]

/-! ## STATUS bits one at a time (60_exceptions.md R94, R96) -/

/-- Raising a condition sets the bit whose number it is, and no other. -/
theorem statusRaise_bit_eq (v : Byte) (c : Condition) (k : Nat) :
    (statusRaise v c).getLsbD k = (v.getLsbD k || decide (k = c.bit)) := by
  have hc : c.bit < 8 := by cases c <;> decide
  have hmask : (1#8 <<< c.bit).getLsbD k = decide (k = c.bit) := by
    rw [← BitVec.twoPow_eq, BitVec.getLsbD_twoPow, decide_eq_true hc, Bool.true_and]
    exact decide_eq_decide.2 eq_comm
  rw [statusRaise, BitVec.getLsbD_or, hmask]

/-- A STATUS bit that a word sets is the bit of the condition the word raises. -/
theorem bit_eq_of_raised {w : Word} {k : Nat} (ht : perform w s = .next t) (hs : s.readStatus.getLsbD k = false)
    (hk : t.readStatus.getLsbD k = true) : (wordCondition? w s).map Condition.bit = some k := by
  by_cases hclr : ∃ d8, decode w = .ok (.statClr d8)
  · obtain ⟨d8, hw⟩ := hclr
    cases (perform_next_iff_exec hw).1 ht
    exact absurd (readStatus_bit_of_acknowledge hk) (by rw [hs]; decide)
  · rw [perform_readStatus (not_exists.1 hclr) ht] at hk
    cases hc : wordCondition? w s with
    | none => rw [hc, Option.elim_none, hs] at hk; cases hk
    | some c =>
      rw [hc, Option.elim_some, statusRaise_bit_eq, hs, Bool.false_or, decide_eq_true_eq] at hk
      exact congrArg some hk.symm

/-- A word other than STAT_CLR clears no STATUS bit. -/
theorem readStatus_bit_kept {w : Word} {k : Nat} (hclr : ∀ d8, decode w ≠ .ok (.statClr d8))
    (ht : perform w s = .next t) (hk : s.readStatus.getLsbD k = true) : t.readStatus.getLsbD k = true := by
  rw [perform_readStatus hclr ht]
  cases wordCondition? w s with
  | none => exact hk
  | some c => rw [Option.elim_some, statusRaise_bit_eq, hk, Bool.true_or]

/-! ## Operations done twice -/

section Twice

variable (s : State)

theorem writeRes_writeRes (v v' : Half) : (s.writeRes v).writeRes v' = s.writeRes v' := rfl

theorem writeStatus_writeStatus (v v' : Byte) : (s.writeStatus v).writeStatus v' = s.writeStatus v' := rfl

theorem raise_writeRes (c : Condition) (v : Half) : (s.raise c).writeRes v = (s.writeRes v).raise c := rfl

theorem raise_raise (c : Condition) : (s.raise c).raise c = s.raise c := by
  rw [State.raise, readStatus_raise, statusRaise, statusRaise, BitVec.or_assoc, BitVec.or_self, State.raise,
    writeStatus_writeStatus, statusRaise]

theorem acknowledge_acknowledge (m : Byte) : (s.acknowledge m).acknowledge m = s.acknowledge m := by
  rw [State.acknowledge, statusClear_readStatus, readStatus_acknowledge, statusClear_readStatus, BitVec.and_assoc,
    BitVec.and_self, State.acknowledge, writeStatus_writeStatus, statusClear_readStatus]

theorem check_check (agree : Bool) (c : Condition) : (s.check agree c).check agree c = s.check agree c := by
  cases agree with
  | true => rfl
  | false => rw [check_false, check_false, raise_writeRes, writeRes_writeRes, raise_raise]

end Twice

end Sys2Proof.Machine
end

section
/-! The statements of 10_state.md and 60_exceptions.md about all commands that are settled here: O28, O29, O32, O33,
O35 and O37. -/

namespace Sys2Proof.Machine

/-- Settles O28: each clause is the frame of one register. -/
theorem registersAreWrittenByTheirCommandsOnly : Obligations.RegistersAreWrittenByTheirCommandsOnly := by
  intro i s
  obtain ⟨t, ht⟩ := exec_total s i
  exact ⟨t, ht, fun ⟨hinit, hfeed⟩ => exec_crc_of_ne hinit hfeed ht,
    fun ⟨hinit, hfeed⟩ => exec_lacc_of_ne hinit hfeed ht, fun hi => exec_res_of_not_writesRes hi ht,
    fun ⟨hcrc, hlrc, hclr⟩ => exec_status_of_ne hcrc hlrc hclr ht⟩

/-- Settles O29: the value a command writes is an expression in the registers it reads. -/
theorem commandsReadTheirRegistersOnly : Obligations.CommandsReadTheirRegistersOnly := by
  intro i s s' t t' ht ht'
  refine ⟨?crcInit, ?crcFeed, ?lrcInit, ?lrcFeed, ?crcRes, ?lrcRes, ?statRd, ?statClr, ?crcChk, ?lrcChk⟩
  case crcInit => rintro rfl; cases ht; cases ht'; rfl
  case crcFeed => rintro ⟨d8, rfl⟩ h; cases ht; cases ht'; exact congrArg (crcStep · d8) h
  case lrcInit => rintro rfl; cases ht; cases ht'; rfl
  case lrcFeed => rintro ⟨d8, rfl⟩ h; cases ht; cases ht'; exact congrArg (· + d8) h
  case crcRes =>
    rintro (rfl | ⟨d16, rfl⟩) h
    · cases ht; cases ht'; exact h
    · cases ht; cases ht'; rw [State.check_res, State.check_res, h]
  case lrcRes =>
    rintro (rfl | ⟨d8, rfl⟩) h
    · cases ht; cases ht'; exact congrArg (fun a => zext16 (lrcNeg a)) h
    · cases ht; cases ht'; rw [State.check_res, State.check_res, h]
  case statRd => rintro rfl h; cases ht; cases ht'; exact congrArg zext16 h
  case statClr =>
    rintro ⟨d8, rfl⟩ h
    cases ht; cases ht'
    rw [readStatus_acknowledge, readStatus_acknowledge, h]
  case crcChk =>
    rintro ⟨d16, rfl⟩ h hstatus
    cases ht; cases ht'
    rw [readStatus_check, readStatus_check, h, hstatus]
  case lrcChk =>
    rintro ⟨d8, rfl⟩ h hstatus
    cases ht; cases ht'
    rw [readStatus_check, readStatus_check, h, hstatus]

/-- Settles O32: a command of one unit commutes with a write of the other's register, and each register follows the
bytes fed to its own unit. -/
theorem unitsAreIndependent : Obligations.UnitsAreIndependent := by
  refine ⟨fun i s v hi => ?crcUnit, fun i s v hi => ?lrcUnit, fun is s his => ?both⟩
  case crcUnit =>
    obtain ⟨t, ht⟩ := exec_total s i
    refine ⟨t, ht, exec_lacc_of_ne ?_ (fun d8 => ?_) ht, exec_writeLacc_of_usesCrcUnit hi ht v⟩
    all_goals rintro rfl; cases hi
  case lrcUnit =>
    obtain ⟨t, ht⟩ := exec_total s i
    refine ⟨t, ht, exec_crc_of_ne ?_ (fun d8 => ?_) ht, exec_writeCrc_of_usesLrcUnit hi ht v⟩
    all_goals rintro rfl; cases hi
  case both =>
    obtain ⟨t, ht⟩ := execAll_total is s
    exact ⟨t, ht, execAll_crc (fun i hi => (his i hi).1) ht, execAll_lacc (fun i hi => (his i hi).2) ht⟩

/-- Settles O33: raising sets bits only, and STAT_CLR clears the bits of its mask only. -/
theorem statusBitsAreSticky : Obligations.StatusBitsAreSticky := by
  refine ⟨fun w s t k ht hk => ?sticky, readStatus_platformReset, fun is s his => ?res⟩
  case sticky =>
    by_cases hclr : ∃ d8, decode w = .ok (.statClr d8)
    · obtain ⟨d8, hw⟩ := hclr
      cases (perform_next_iff_exec hw).1 ht
      rw [readStatus_acknowledge_bit s d8 (BitVec.lt_of_getLsbD hk), hk, Bool.true_and]
      cases hmask : d8.getLsbD k with
      | false => exact .inl rfl
      | true => exact .inr ⟨d8, hw, hmask⟩
    · exact .inl (readStatus_bit_kept (not_exists.1 hclr) ht hk)
  case res =>
    obtain ⟨t, ht⟩ := execAll_total is s
    exact ⟨t, ht, execAll_res_of_not_writesRes his ht⟩

/-- Settles O35: a bit that a word sets is the bit of the one condition the word raises. -/
theorem aWordRaisesAtMostOneCondition : Obligations.AWordRaisesAtMostOneCondition :=
  fun _ _ _ _ _ ht hsj htj hsk htk =>
    Option.some.inj ((bit_eq_of_raised ht hsj htj).symm.trans (bit_eq_of_raised ht hsk htk))

/-- Settles O37: a command that does not feed writes a value that its own write does not change. -/
theorem readsChecksAndInitsAreIdempotent : Obligations.ReadsChecksAndInitsAreIdempotent := by
  intro i s t hi ht
  cases i with
  | crcFeed d8 => exact absurd rfl (hi d8).1
  | lrcFeed d8 => exact absurd rfl (hi d8).2
  | crcChk _ => cases ht; rw [exec_crcChk, State.check_crc, check_check]
  | lrcChk _ => cases ht; rw [exec_lrcChk, State.check_lacc, check_check]
  | statClr m => cases ht; exact congrArg Host.Outcome.next (acknowledge_acknowledge s m)
  | nop | crcInit | crcRd | lrcInit | lrcRd | statRd => cases ht; rfl

end Sys2Proof.Machine
end

section
/-! SUPPORT. The arithmetic laws of both checksum functions: crc_step is affine, one iteration of its inner loop loses
nothing, and so neither a register nor a fed byte does (40_crc16.md R63, R66, R67); LRC-8 is a sum in a commutative
group (41_lrc8.md R75, R76, R80). -/

namespace Sys2Proof.Machine

/-! ## crc_step is affine (40_crc16.md R67) -/

theorem crcStep_eq_xor (c : Half) (b : Byte) : crcStep c b = crcShifts 8 c ^^^ crcShifts 8 (zext16 b) :=
  crcShifts_xor 8 c (zext16 b)

theorem zext16_xor (a b : Byte) : zext16 (a ^^^ b) = zext16 a ^^^ zext16 b := BitVec.setWidth_xor

/-- A term XORed to each of three others enters the XOR of the three once. -/
theorem xor_three_add (a b c d : Half) : a ^^^ b ^^^ c ^^^ d = (a ^^^ d) ^^^ (b ^^^ d) ^^^ (c ^^^ d) := by
  have hd : d ^^^ d ^^^ d = d := by rw [BitVec.xor_self, BitVec.zero_xor]
  calc a ^^^ b ^^^ c ^^^ d
    _ = a ^^^ b ^^^ c ^^^ (d ^^^ d ^^^ d) := by rw [hd]
    _ = (a ^^^ d) ^^^ (b ^^^ d) ^^^ (c ^^^ d) := by ac_rfl

/-! ## The inner loop is a bijection (40_crc16.md R63) -/

/-- An iteration puts the bit it shifts out into bit 15, since 0xA001 has that bit. -/
theorem crcShift_bit_fifteen (c : Half) : (crcShift c).getLsbD 15 = c.getLsbD 0 := by
  rw [crcShift_eq, BitVec.getLsbD_xor, BitVec.getLsbD_ushiftRight, BitVec.getLsbD_of_ge c (1 + 15) le_rfl,
    Bool.false_xor]
  cases c.getLsbD 0 <;> rfl

theorem eq_zero_of_crcShift_eq_zero {c : Half} (h : crcShift c = 0x0000#16) : c = 0x0000#16 := by
  have hlow : c.getLsbD 0 = false := by rw [← crcShift_bit_fifteen, h]; rfl
  have hshift : c >>> 1 = 0x0000#16 := by rw [← h, crcShift, hlow]; rfl
  apply BitVec.eq_of_getLsbD_eq
  intro i _
  cases i with
  | zero => exact hlow
  | succ i => rw [Nat.add_comm, ← BitVec.getLsbD_ushiftRight, hshift, BitVec.getLsbD_zero, BitVec.getLsbD_zero]

theorem crcShift_injective : Function.Injective crcShift := by
  intro c d h
  rw [← BitVec.xor_eq_zero_iff] at h ⊢
  exact eq_zero_of_crcShift_eq_zero ((crcShift_xor c d).trans h)

theorem crcShifts_injective (n : Nat) : Function.Injective (crcShifts n) := by
  induction n with
  | zero => exact Function.injective_id
  | succ n ih => exact ih.comp crcShift_injective

theorem crcShifts_eq_zero_iff (n : Nat) (c : Half) : crcShifts n c = 0x0000#16 ↔ c = 0x0000#16 := by
  rw [← crcShifts_zero_register n, (crcShifts_injective n).eq_iff, crcShifts_zero_register]

/-! ## No register and no byte is lost (40_crc16.md R66) -/

theorem crcStep_injective_register (b : Byte) : Function.Injective (crcStep · b) := fun _ _ h =>
  (BitVec.xor_left_inj _).1 (crcShifts_injective 8 h)

theorem zext16_injective : Function.Injective zext16 := fun a b h => by
  rw [← lowByte_zext16 a, h, lowByte_zext16]

theorem crcStep_injective_byte (c : Half) : Function.Injective (crcStep c) := fun _ _ h =>
  zext16_injective ((BitVec.xor_right_inj c).1 (crcShifts_injective 8 h))

theorem crcFrom_injective_register (s : List Byte) : Function.Injective (crcFrom · s) := by
  induction s with
  | nil => exact Function.injective_id
  | cons b s ih => exact ih.comp (crcStep_injective_register b)

/-- A sequence with one byte replaced by another has another CRC. -/
theorem crc16_set_ne {s : List Byte} {j : Nat} {b : Byte} (hj : j < s.length) (hb : b ≠ s[j]) :
    crc16 (s.set j b) ≠ crc16 s := by
  conv_rhs => rw [← List.take_append_drop j s, List.drop_eq_getElem_cons hj]
  rw [List.set_eq_take_append_cons_drop, if_pos hj, crc16, crc16, crcFrom_append, crcFrom_append]
  exact fun heq => hb (crcStep_injective_byte _ (crcFrom_injective_register _ heq))

/-- A range and two bytes leave 0 exactly when the bytes are the range's trailer. -/
theorem crc16_append_pair_eq_zero_iff (s : List Byte) (t0 t1 : Byte) :
    crc16 (s ++ [t0, t1]) = 0x0000#16 ↔ trailerOperand t0 t1 = crc16 s := by
  rw [crc16, crcFrom_append, crcFrom_pair, crcShifts_eq_zero_iff, BitVec.xor_eq_zero_iff, eq_comm]
  rfl

/-! ## LRC-8 (41_lrc8.md R75, R76, R80) -/

theorem lrcSum_eq_sum (s : List Byte) : lrcSum s = s.sum := by
  have hfrom (a : Byte) : lrcSumFrom a s = a + s.sum := by
    induction s generalizing a with
    | nil => exact (add_zero a).symm
    | cons b s ih => rw [lrcSumFrom_cons, ih, List.sum_cons, add_assoc]
  exact (hfrom 0).trans (zero_add _)

theorem lrc8_eq_neg_sum (s : List Byte) : lrc8 s = -s.sum := by
  rw [lrc8, lrcNeg_eq_neg, lrcSum_eq_sum]

theorem lrcSum_append_eq_sub (s : List Byte) (b : Byte) : lrcSum (s ++ [b]) = b - lrc8 s := by
  rw [lrcSum_append_singleton, lrcSum_eq_sum, lrc8_eq_neg_sum, sub_neg_eq_add, add_comm]

theorem lrcSum_append_eq_zero_iff (s : List Byte) (b : Byte) : lrcSum (s ++ [b]) = 0x00#8 ↔ b = lrc8 s := by
  rw [lrcSum_append_eq_sub]
  exact sub_eq_zero

/-- Replacing a byte changes the sum by the difference. -/
theorem sum_set_eq {s : List Byte} {j : Nat} (hj : j < s.length) (b : Byte) :
    (s.set j b).sum = s.sum + (-s[j] + b) := by
  rw [List.sum_set', dif_pos hj]

/-- A sequence with one byte replaced by another has another sum. -/
theorem lrcSum_set_ne {s : List Byte} {j : Nat} {b : Byte} (hj : j < s.length) (hb : b ≠ s[j]) :
    lrcSum (s.set j b) ≠ lrcSum s := by
  rw [lrcSum_eq_sum, lrcSum_eq_sum, sum_set_eq hj, Ne, add_eq_left, neg_add_eq_zero]
  exact hb.symm

/-- Bit 7 flips by adding 0x80, since the carry is lost. -/
theorem neg_add_xor_bit_seven (b : Byte) : -b + (b ^^^ 0x80#8) = 0x80#8 := by
  revert b
  decide

end Sys2Proof.Machine
end

section
/-! SUPPORT. What the commands of one unit leave in its register, and frames of either kind told apart by the checksum
over the whole frame, trailer included (40_crc16.md R65, R66, 41_lrc8.md R79, R80). -/

namespace Sys2Proof.Machine

variable {s t : State}

/-! ## Since INIT or reset (40_crc16.md R62, 41_lrc8.md R77) -/

/-- From the initial value in CRC, commands but CRC_INIT leave the CRC of the bytes fed. -/
theorem exists_execAll_crc {is : List Instr} (his : ∀ i ∈ is, i ≠ .crcInit) (hs : s.crc = crcInitValue) :
    ∃ t, execAll is s = .next t ∧ t.crc = crc16 (crcFed is) := by
  obtain ⟨t, ht⟩ := execAll_total is s
  refine ⟨t, ht, ?_⟩
  rw [execAll_crc his ht, hs, crc16]

/-- From 0 in LACC, commands but LRC_INIT leave the sum of the bytes fed, and LRC_RD then gives their LRC. -/
theorem exists_execAll_lacc {is : List Instr} (his : ∀ i ∈ is, i ≠ .lrcInit) (hs : s.lacc = 0x00) :
    ∃ t u, execAll is s = .next t ∧ t.lacc = lrcSum (lrcFed is) ∧ exec .lrcRd t = .next u ∧
      u.res = zext16 (lrc8 (lrcFed is)) := by
  obtain ⟨t, ht⟩ := execAll_total is s
  have hsum : t.lacc = lrcSum (lrcFed is) := by rw [execAll_lacc his ht, hs, lrcSum]
  refine ⟨t, _, ht, hsum, exec_lrcRd t, ?_⟩
  rw [State.writeRes_res, hsum, lrc8]

/-! ## A frame is good where its checksum with the trailer is 0 -/

theorem exists_eq_append_pair {f : List Byte} (hf : 3 ≤ f.length) :
    ∃ range t0 t1, range ≠ [] ∧ f = range ++ [t0, t1] := by
  obtain ⟨t0, t1, htrailer⟩ := List.length_eq_two.1 (show (f.drop (f.length - 2)).length = 2 by simp; omega)
  refine ⟨f.take (f.length - 2), t0, t1, ?_, by rw [← htrailer, List.take_append_drop]⟩
  rw [← List.length_pos_iff, List.length_take]
  omega

theorem exists_eq_append_singleton {f : List Byte} (hf : 2 ≤ f.length) : ∃ range b, range ≠ [] ∧ f = range ++ [b] := by
  have hne : f ≠ [] := by rintro rfl; simp at hf
  refine ⟨f.dropLast, f.getLast hne, ?_, (List.dropLast_append_getLast hne).symm⟩
  rw [← List.length_pos_iff, List.length_dropLast]
  omega

/-- The verify procedure for RTU accepts exactly the frames whose CRC is 0, and CRCM is set by the others. -/
theorem exists_judge_verifyRtu {f : List Byte} (hf : 3 ≤ f.length) (s : State) :
    ∃ t, judge (verifyRtu f) s = some (if crc16 f = 0x0000#16 then .accepted else .checksumMismatch, t) ∧
      (crc16 f ≠ 0x0000#16 → t.readStatus.getLsbD 0 = true) := by
  obtain ⟨range, t0, t1, hr, rfl⟩ := exists_eq_append_pair hf
  rw [verifyRtu_append range t0 t1 hr, judge_of_execAll (execAll_crcInit_feedCrc_crcChk range _ s), verdictOf_check]
  simp only [beq_iff_eq, Ne, crc16_append_pair_eq_zero_iff]
  refine ⟨_, rfl, fun hne => ?_⟩
  rw [beq_false_of_ne hne]
  exact readStatus_check_false_bit _ .crcm

/-- The verify procedure for ASCII accepts exactly the frames whose sum is 0, and LRCM is set by the others. -/
theorem exists_judge_verifyAscii {f : List Byte} (hf : 2 ≤ f.length) (s : State) :
    ∃ t, judge (verifyAscii f) s = some (if lrcSum f = 0x00#8 then .accepted else .checksumMismatch, t) ∧
      (lrcSum f ≠ 0x00#8 → t.readStatus.getLsbD 1 = true) := by
  obtain ⟨range, b, hr, rfl⟩ := exists_eq_append_singleton hf
  rw [verifyAscii_append range b hr, judge_of_execAll (execAll_lrcInit_feedLrc_lrcChk range b s), verdictOf_check]
  simp only [beq_iff_eq, Ne, lrcSum_append_eq_zero_iff]
  refine ⟨_, rfl, fun hne => ?_⟩
  rw [beq_false_of_ne hne]
  exact readStatus_check_false_bit _ .lrcm

/-! ## Generated frames with a bit flipped -/

theorem three_le_length_rtuFrame (a : Byte) (pdu : List Byte) : 3 ≤ (rtuFrame a pdu).length := by
  simp [rtuFrame, checksumRange, crcTrailer]

theorem two_le_length_asciiFrame (a : Byte) (pdu : List Byte) : 2 ≤ (asciiFrame a pdu).length := by
  simp [asciiFrame, checksumRange]

theorem crc16_rtuFrame (a : Byte) (pdu : List Byte) : crc16 (rtuFrame a pdu) = 0x0000#16 :=
  crc16_append_crcTrailer (checksumRange a pdu)

theorem lrcSum_asciiFrame (a : Byte) (pdu : List Byte) : lrcSum (asciiFrame a pdu) = 0x00#8 :=
  lrcSum_append_lrc8 (checksumRange a pdu)

theorem xor_bit_ne_self (b : Byte) {k : Nat} (hk : k < 8) : b ^^^ (1#8 <<< k) ≠ b := by
  have hbit : 1#8 <<< k ≠ 0#8 := by interval_cases k <;> decide
  intro h
  exact hbit ((BitVec.xor_right_inj b).1 (h.trans BitVec.xor_zero.symm))

end Sys2Proof.Machine
end

section
/-! The statements of 40_crc16.md and 41_lrc8.md that the spec derives: O39, O40, O41, O45, O46, O47, O52, O53 and
O38. -/

namespace Sys2Proof.Machine

/-- Settles O39: crc_step is the XOR of a linear function of each argument, so one that is fixed enters the XOR of
three once. -/
theorem crcStepIsAffine : Obligations.CrcStepIsAffine := by
  refine ⟨fun c c' c'' b => ?register, fun c b b' b'' => ?byte⟩
  case register => simp only [crcStep_eq_xor, crcShifts_xor, ← xor_three_add]
  case byte =>
    simp only [crcStep_eq_xor, zext16_xor, crcShifts_xor, BitVec.xor_comm (crcShifts 8 c), ← xor_three_add]

/-- Settles O40: two fed bytes are 16 iterations, which lose nothing, on the register with both XORed in. -/
theorem crcResidueIsZeroExactlyForTheRightTrailer : Obligations.CrcResidueIsZeroExactlyForTheRightTrailer := by
  refine ⟨crc16_append_pair_eq_zero_iff, crcFrom_pair, (crcShifts_injective 16).bijective_of_finite,
    fun range t0 t1 s => ?verify⟩
  case verify =>
    refine ⟨_, _, execAll_crcInit_feedCrc_crcChk range _ s, execAll_crcInit_feedCrc_crcChk (range ++ [t0, t1]) _ s, ?_⟩
    rw [check_res_eq_zero_iff, check_res_eq_zero_iff, beq_iff_eq, beq_iff_eq, eq_comm (a := (0x0000 : Half))]
    exact (crc16_append_pair_eq_zero_iff range t0 t1).symm

/-- Settles O41: CRC_INIT and reset leave the value from which the fold over the fed bytes begins. -/
theorem crcCommandsComputeTheCrcFunction : Obligations.CrcCommandsComputeTheCrcFunction := by
  refine fun is his => ⟨fun s => ?init, fun s => exists_execAll_crc his s.platformReset_crc⟩
  case init =>
    rw [List.singleton_append, execAll_cons_of_exec (exec_crcInit s)]
    exact exists_execAll_crc his (s.writeCrc_crc _)

/-- Settles O45: the byte after the range is compared with the negated sum in both methods. -/
theorem lrcVerifyMethodsAgree : Obligations.LrcVerifyMethodsAgree := by
  refine ⟨fun s b => ⟨lrcSum_append_eq_sub s b, lrcSum_append_eq_zero_iff s b⟩, fun range b s => ?verify⟩
  case verify =>
    refine ⟨_, _, execAll_lrcInit_feedLrc_lrcChk range b s, execAll_lrcInit_feedLrc_lrcChk (range ++ [b]) 0x00 s, ?_⟩
    rw [check_res_eq_zero_iff, check_res_eq_zero_iff, beq_iff_eq, beq_iff_eq, eq_comm (a := (0x00 : Byte)),
      ← lrcSum_append_eq_zero_iff, lrc8, lrcNeg_eq_neg]
    exact neg_eq_zero.symm

/-- Settles O46: LRC_INIT and reset leave 0, from which the sum of the fed bytes begins. -/
theorem lrcCommandsComputeTheLrcFunction : Obligations.LrcCommandsComputeTheLrcFunction := by
  refine fun is his => ⟨fun s => ?init, fun s => exists_execAll_lacc his s.platformReset_lacc⟩
  case init =>
    rw [List.singleton_append, execAll_cons_of_exec (exec_lrcInit s)]
    exact exists_execAll_lacc his (s.writeLacc_lacc _)

/-- Settles O47: each flip adds 0x80, a sum has no order, and 0 adds nothing. -/
theorem lrcMissesThreeKindsOfError : Obligations.LrcMissesThreeKindsOfError := by
  refine ⟨fun s i j hi hj hne _ => ?flips, fun s t hperm => ?order, fun s t => ?zero⟩
  case flips =>
    have hj' : j < (s.set i (s[i] ^^^ 0x80#8)).length := by rw [List.length_set]; exact hj
    have htwice : (0x80#8 + 0x80#8 : Byte) = 0 := by decide
    rw [lrc8_eq_neg_sum, lrc8_eq_neg_sum, sum_set_eq hj', List.getElem_set_ne hne, sum_set_eq hi,
      neg_add_xor_bit_seven, neg_add_xor_bit_seven, add_assoc, htwice, add_zero]
  case order =>
    rw [lrcSum_eq_sum, lrcSum_eq_sum, lrc8_eq_neg_sum, lrc8_eq_neg_sum, hperm.sum_eq]
    exact ⟨rfl, rfl⟩
  case zero =>
    have hzero : (0x00#8 + t.sum : Byte) = t.sum := zero_add _
    simp only [lrc8_eq_neg_sum, List.sum_append, List.sum_cons, hzero]

/-- Settles O52: a generated frame has CRC 0, and any other byte in place of one of its bytes gives another CRC. -/
theorem rtuSingleBitFlipIsDetected : Obligations.RtuSingleBitFlipIsDetected := by
  refine fun a pdu s => ⟨?accepted, fun j k hj hk => ?flipped⟩
  case accepted =>
    obtain ⟨t, ht, -⟩ := exists_judge_verifyRtu (three_le_length_rtuFrame a pdu) s
    rw [if_pos (crc16_rtuFrame a pdu)] at ht
    exact ⟨t, ht⟩
  case flipped =>
    have hne := crc16_set_ne hj (xor_bit_ne_self (rtuFrame a pdu)[j] hk)
    rw [crc16_rtuFrame] at hne
    obtain ⟨t, ht, hbit⟩ := exists_judge_verifyRtu (List.length_set ▸ three_le_length_rtuFrame a pdu) s
    rw [if_neg hne] at ht
    exact ⟨t, ht, hbit hne⟩

/-- Settles O53: a generated frame sums to 0, and any other byte in place of one of its bytes gives another sum. -/
theorem asciiSingleBitFlipIsDetected : Obligations.AsciiSingleBitFlipIsDetected := by
  refine fun a pdu s => ⟨?accepted, fun j k hj hk => ?flipped⟩
  case accepted =>
    obtain ⟨t, ht, -⟩ := exists_judge_verifyAscii (two_le_length_asciiFrame a pdu) s
    rw [if_pos (lrcSum_asciiFrame a pdu)] at ht
    exact ⟨t, ht⟩
  case flipped =>
    have hne := lrcSum_set_ne hj (xor_bit_ne_self (asciiFrame a pdu)[j] hk)
    rw [lrcSum_asciiFrame] at hne
    obtain ⟨t, ht, hbit⟩ := exists_judge_verifyAscii (List.length_set ▸ two_le_length_asciiFrame a pdu) s
    rw [if_neg hne] at ht
    exact ⟨t, ht, hbit hne⟩

/-- Settles O38: the fold over `List.range 8` is the recursion of `crcShifts`, and crc16 is a left fold. -/
theorem crcStepIsTheBitSerialProcedure : Obligations.CrcStepIsTheBitSerialProcedure :=
  ⟨fun _ _ => rfl, rfl, fun s b => crcFrom_append crcInitValue s [b]⟩

end Sys2Proof.Machine
end

section
/-! SUPPORT. One register over a command list that holds its unit's INIT, and a check whose condition was cleared before
(70_reset_and_hazards.md R106, R107). -/

namespace Sys2Proof.Machine

variable {s s' t t' : State}

/-! ## INIT first (R106) -/

/-- What a command leaves in the view depends on the view alone, whatever else the state holds. -/
def DependsOnItself {α : Type} (view : State → α) : Prop :=
  ∀ (i : Instr) (s s' t t' : State), exec i s = .next t → exec i s' = .next t' → view s = view s' → view t = view t'

theorem dependsOnItself_crc : DependsOnItself State.crc := by
  intro i s s' t t' ht ht' h
  by_cases hi : i = .crcInit
  · subst hi; cases ht; cases ht'; rfl
  · rw [exec_crc hi ht, exec_crc hi ht', h]

theorem dependsOnItself_lacc : DependsOnItself State.lacc := by
  intro i s s' t t' ht ht' h
  by_cases hi : i = .lrcInit
  · subst hi; cases ht; cases ht'; rfl
  · rw [exec_lacc hi ht, exec_lacc hi ht', h]

variable {α : Type} {view : State → α}

theorem DependsOnItself.eq_of_execAll (hview : DependsOnItself view) {is : List Instr} (hs : view s = view s')
    (ht : execAll is s = .next t) (ht' : execAll is s' = .next t') : view t = view t' := by
  induction is generalizing s s' with
  | nil => cases ht; cases ht'; exact hs
  | cons i is ih =>
    obtain ⟨u, hu⟩ := exec_total s i
    obtain ⟨u', hu'⟩ := exec_total s' i
    rw [execAll_cons_of_exec hu] at ht
    rw [execAll_cons_of_exec hu'] at ht'
    exact ih (hview i s s' u u' hu hu' hs) ht ht'

/-- A list that holds a command which gives the view one value forgets the start state. -/
theorem DependsOnItself.exists_execAll_of_mem (hview : DependsOnItself view) {init : Instr} {v : α}
    (hinit : ∀ s, ∃ t, exec init s = .next t ∧ view t = v) {is : List Instr} (hmem : init ∈ is) (s s' : State) :
    ∃ t t', execAll is s = .next t ∧ execAll is s' = .next t' ∧ view t = view t' := by
  obtain ⟨pre, post, rfl⟩ := List.append_of_mem hmem
  obtain ⟨u, hu⟩ := execAll_total pre s
  obtain ⟨u', hu'⟩ := execAll_total pre s'
  obtain ⟨w, hw, hv⟩ := hinit u
  obtain ⟨w', hw', hv'⟩ := hinit u'
  rw [execAll_append_of_execAll hu, execAll_append_of_execAll hu', execAll_cons_of_exec hw, execAll_cons_of_exec hw']
  obtain ⟨t, ht⟩ := execAll_total post w
  obtain ⟨t', ht'⟩ := execAll_total post w'
  exact ⟨t, t', ht, ht', hview.eq_of_execAll (hv.trans hv'.symm) ht ht'⟩

/-- Where some command has the property and the first that has it is `init`, the list holds `init`. -/
theorem mem_of_find?_eq {uses : Instr → Bool} {init : Instr} {is : List Instr}
    (hfirst : ∀ i, is.find? uses = some i → i = init) (hex : ∃ i ∈ is, uses i = true) : init ∈ is := by
  obtain ⟨i, hi⟩ := Option.isSome_iff_exists.1 (List.find?_isSome.2 hex)
  exact hfirst i hi ▸ List.mem_of_find?_eq_some hi

theorem crcInit_mem_of_initsCrcFirst {is : List Instr} (h : initsCrcFirst is = true)
    (hex : ∃ i ∈ is, usesCrcUnit i = true) : Instr.crcInit ∈ is :=
  mem_of_find?_eq (fun i hi => by rw [initsCrcFirst, hi] at h; exact eq_of_beq h) hex

theorem lrcInit_mem_of_initsLrcFirst {is : List Instr} (h : initsLrcFirst is = true)
    (hex : ∃ i ∈ is, usesLrcUnit i = true) : Instr.lrcInit ∈ is :=
  mem_of_find?_eq (fun i hi => by rw [initsLrcFirst, hi] at h; exact eq_of_beq h) hex

theorem ne_crcInit_of_mem_feedCrc {bs : List Byte} {i : Instr} (hi : i ∈ feedCrc bs) : i ≠ .crcInit := by
  obtain ⟨b, -, rfl⟩ := List.mem_map.1 hi
  nofun

theorem ne_lrcInit_of_mem_feedLrc {bs : List Byte} {i : Instr} (hi : i ∈ feedLrc bs) : i ≠ .lrcInit := by
  obtain ⟨b, -, rfl⟩ := List.mem_map.1 hi
  nofun

/-! ## A cleared bit (R107) -/

/-- Where a check's bit was 0, it is 1 afterwards exactly when the check disagrees. -/
theorem readStatus_check_bit_iff {c : Condition} (hs : s.readStatus.getLsbD c.bit = false) (agree : Bool) :
    (s.check agree c).readStatus.getLsbD c.bit = true ↔ agree = false := by
  cases agree with
  | true => simp [check_true, readStatus_writeRes, hs]
  | false => simp [readStatus_check_false_bit]

/-- STAT_CLR leaves the bits of its mask at 0. -/
theorem readStatus_acknowledge_bit_of_mask (s : State) {m : Byte} {k : Nat} (hm : m.getLsbD k = true) :
    (s.acknowledge m).readStatus.getLsbD k = false := by
  rw [readStatus_acknowledge_bit s m (BitVec.lt_of_getLsbD hm), hm, Bool.not_true, Bool.and_false]

/-! ## Platform events (60_exceptions.md R102) -/

theorem Platform.step_command_of_next {cfg : Config} {u : Fin cfg.numUnits} {p : Platform cfg}
    (h : Machine.step (p.unit u) = .next t) : Platform.step (.command u) p = .next (p.setUnit u t) := by
  rw [Platform.step, h]

theorem Platform.step_command_of_fault {cfg : Config} {u : Fin cfg.numUnits} {p : Platform cfg} {r : Fault}
    (h : Machine.step (p.unit u) = .fault r) : Platform.step (.command u) p = .fault r := by
  rw [Platform.step, h]

theorem Platform.step_reset {cfg : Config} (u : Fin cfg.numUnits) (p : Platform cfg) :
    Platform.step (.reset u) p = .next (p.setUnit u (p.unit u).platformReset) := rfl

/-- An event that does not stop replaces the state of the unit it goes to, and the new state depends on that unit's
alone. -/
theorem Platform.step_next_inv {cfg : Config} {e : Platform.Event cfg} {p q : Platform cfg}
    (h : Platform.step e p = .next q) : ∃ t, q = p.setUnit e.target t ∧
      ∀ p' : Platform cfg, p'.unit e.target = p.unit e.target → Platform.step e p' = .next (p'.setUnit e.target t) := by
  cases e with
  | command u =>
    obtain ⟨w, -, hstep⟩ | ⟨-, hstep⟩ := step_cases (p.unit u)
    · obtain ⟨t, ht⟩ := perform_total (p.unit u).advance w
      rw [ht] at hstep
      cases (Platform.step_command_of_next hstep).symm.trans h
      exact ⟨t, rfl, fun p' hp' => Platform.step_command_of_next ((congrArg Machine.step hp').trans hstep)⟩
    · cases (Platform.step_command_of_fault hstep).symm.trans h
  | reset u =>
    cases h
    refine ⟨_, rfl, fun p' hp' => ?_⟩
    rw [Platform.step_reset, show p'.unit u = p.unit u from hp']
    rfl

end Sys2Proof.Machine
end

section
/-! The statements of 70_reset_and_hazards.md and about platforms that are settled here: O54, O55, O56 and
O57. -/

namespace Sys2Proof.Machine

/-- Settles O54: a list whose first command of a unit is its INIT holds that INIT, and without a second one the reads
in between change nothing. -/
theorem initMakesHistoryIrrelevant : Obligations.InitMakesHistoryIrrelevant := by
  refine ⟨fun is s s' hfirst hex => ?crc, fun is s s' hfirst hex => ?lacc, fun p q s => ?crcRanges,
    fun p q s => ?lrcRanges⟩
  case crc =>
    exact dependsOnItself_crc.exists_execAll_of_mem (fun s => ⟨_, exec_crcInit s, s.writeCrc_crc _⟩)
      (crcInit_mem_of_initsCrcFirst hfirst hex) s s'
  case lacc =>
    exact dependsOnItself_lacc.exists_execAll_of_mem (fun s => ⟨_, exec_lrcInit s, s.writeLacc_lacc _⟩)
      (lrcInit_mem_of_initsLrcFirst hfirst hex) s s'
  case crcRanges =>
    have his : ∀ i ∈ feedCrc p ++ [Instr.crcRd] ++ feedCrc q, i ≠ .crcInit := by
      simp only [List.forall_mem_append, List.forall_mem_singleton]
      exact ⟨⟨fun _ => ne_crcInit_of_mem_feedCrc, nofun⟩, fun _ => ne_crcInit_of_mem_feedCrc⟩
    have hfed : crcFed (feedCrc p ++ [Instr.crcRd] ++ feedCrc q) = p ++ q := by
      rw [crcFed_append, crcFed_append, crcFed_feedCrc, crcFed_feedCrc, crcFed_singleton_of_ne (i := .crcRd) nofun,
        List.append_nil]
    obtain ⟨hinit, -⟩ := crcCommandsComputeTheCrcFunction _ his
    obtain ⟨t, ht, hcrc⟩ := hinit s
    have hrun := execAll_append_of_execAll ht [.crcRd]
    simp only [List.append_assoc] at hrun ⊢
    exact ⟨_, hrun, hcrc.trans (congrArg crc16 hfed)⟩
  case lrcRanges =>
    have his : ∀ i ∈ feedLrc p ++ [Instr.lrcRd] ++ feedLrc q, i ≠ .lrcInit := by
      simp only [List.forall_mem_append, List.forall_mem_singleton]
      exact ⟨⟨fun _ => ne_lrcInit_of_mem_feedLrc, nofun⟩, fun _ => ne_lrcInit_of_mem_feedLrc⟩
    have hfed : lrcFed (feedLrc p ++ [Instr.lrcRd] ++ feedLrc q) = p ++ q := by
      rw [lrcFed_append, lrcFed_append, lrcFed_feedLrc, lrcFed_feedLrc, lrcFed_singleton_of_ne (i := .lrcRd) nofun,
        List.append_nil]
    obtain ⟨hinit, -⟩ := lrcCommandsComputeTheLrcFunction _ his
    obtain ⟨t, u, ht, -, hrd, hres⟩ := hinit s
    have hrun := (execAll_append_of_execAll ht [.lrcRd]).trans ((execAll_singleton _ t).trans hrd)
    simp only [List.append_assoc] at hrun ⊢
    exact ⟨u, hrun, by rw [hres, hfed]⟩

/-- Settles O55: the bit is 0 when the check begins, and INIT and the FEEDs leave it. -/
theorem clearedStatusJudgesTheNextFrame : Obligations.ClearedStatusJudgesTheNextFrame := by
  refine ⟨fun range d16 s => ?rtu, fun range d8 s => ?ascii⟩
  case rtu =>
    have hclear : ((s.acknowledge 0x01).writeCrc (crc16 range)).readStatus.getLsbD Condition.crcm.bit = false :=
      readStatus_acknowledge_bit_of_mask s (by decide)
    have hrun := (execAll_cons_of_exec (exec_statClr s 0x01) _).trans
      ((execAll_crcInit_feedCrc range [.crcChk d16, .statRd] _).trans (execAll_pair (exec_crcChk _ d16) .statRd))
    refine ⟨_, hrun.trans (exec_statRd _), ?_⟩
    rw [State.writeRes_res, zext16_bit, State.writeCrc_crc]
    exact (readStatus_check_bit_iff hclear _).trans beq_eq_false_iff_ne
  case ascii =>
    have hclear : ((s.acknowledge 0x02).writeLacc (lrcSum range)).readStatus.getLsbD Condition.lrcm.bit = false :=
      readStatus_acknowledge_bit_of_mask s (by decide)
    have hrun := (execAll_cons_of_exec (exec_statClr s 0x02) _).trans
      ((execAll_lrcInit_feedLrc range [.lrcChk d8, .statRd] _).trans (execAll_pair (exec_lrcChk _ d8) .statRd))
    refine ⟨_, hrun.trans (exec_statRd _), ?_⟩
    rw [State.writeRes_res, zext16_bit, State.writeLacc_lacc]
    exact (readStatus_check_bit_iff hclear _).trans beq_eq_false_iff_ne

/-- Settles O56: an event replaces the state of its target, as a function of that state. -/
theorem instancesShareNothing : Obligations.InstancesShareNothing := by
  intro cfg e p q h
  obtain ⟨t, rfl, hsame⟩ := Platform.step_next_inv h
  refine ⟨fun v hv => Platform.setUnit_other p e.target v t hv.symm, fun p' hp' => ⟨_, hsame p' hp', ?_⟩⟩
  rw [Platform.setUnit_self, Platform.setUnit_self]

/-- Settles O57: the start replicates reset, and each event puts the unit's next state in its place. -/
theorem instancesStepAndResetOneByOne : Obligations.InstancesStepAndResetOneByOne := by
  refine ⟨Platform.start_unit, fun cfg u p t ht => ?command, fun cfg u p => ?reset⟩
  case command => exact ⟨_, Platform.step_command_of_next ht, Platform.setUnit_self p u t⟩
  case reset =>
    refine ⟨_, Platform.step_reset u p, ?_⟩
    rw [Platform.setUnit_self]
    exact ⟨State.platformReset_crc _, State.platformReset_lacc _, State.platformReset_res _,
      readStatus_platformReset _⟩

end Sys2Proof.Machine
end

section
/-! SUPPORT. The assembler over the lines that the disassembler prints: a name, or a name, one space and one operand
(30_encoding.md R52, R54). -/

namespace Sys2Proof.Machine

/-! ## Lines of plain characters -/

/-- Neither a separator of tokens nor the beginning of a comment (log entry 9). -/
def plainChar (c : Char) : Bool := c != ' ' && c != '\t' && c != ';'

theorem plainChar_eq_true_iff (c : Char) : plainChar c = true ↔ ¬ (c = ' ' ∨ c = '\t') ∧ c ≠ ';' := by
  simp [plainChar, and_assoc]

section Tokens

variable {c d : Char} {cs t : List Char} {ts : List (List Char)}

theorem tokens_separator_cons (hc : c = ' ' ∨ c = '\t') : tokens (c :: cs) = tokens cs := by
  rw [tokens.eq_def]
  exact if_pos hc

theorem tokens_singleton (hc : ¬ (c = ' ' ∨ c = '\t')) : tokens [c] = [[c]] := by
  rw [tokens.eq_def]
  exact if_neg hc

theorem tokens_cons_separator_cons (hc : ¬ (c = ' ' ∨ c = '\t')) (hd : d = ' ' ∨ d = '\t') :
    tokens (c :: d :: cs) = [c] :: tokens (d :: cs) := by
  rw [tokens.eq_def]
  exact (if_neg hc).trans (if_pos hd)

theorem tokens_cons_cons (hc : ¬ (c = ' ' ∨ c = '\t')) (hd : ¬ (d = ' ' ∨ d = '\t')) (h : tokens (d :: cs) = t :: ts) :
    tokens (c :: d :: cs) = (c :: t) :: ts := by
  rw [tokens.eq_def]
  refine (if_neg hc).trans ((if_neg hd).trans ?_)
  rw [h]

end Tokens

/-- A token ends where the line does or a separator follows. -/
theorem tokens_append {t rest : List Char} (hne : t ≠ []) (ht : ∀ c ∈ t, plainChar c = true)
    (hrest : ∀ d ∈ rest.head?, d = ' ' ∨ d = '\t') : tokens (t ++ rest) = t :: tokens rest := by
  induction t with
  | nil => exact absurd rfl hne
  | cons c t ih =>
    obtain ⟨hc, htail⟩ := List.forall_mem_cons.1 ht
    obtain ⟨hsep, -⟩ := (plainChar_eq_true_iff c).1 hc
    cases t with
    | nil =>
      cases rest with
      | nil => exact tokens_singleton hsep
      | cons d rest => exact tokens_cons_separator_cons hsep (hrest d rfl)
    | cons d t =>
      obtain ⟨hsep', -⟩ := (plainChar_eq_true_iff d).1 (htail d List.mem_cons_self)
      exact tokens_cons_cons hsep hsep' (ih (List.cons_ne_nil d t) htail)

/-- A plain name alone is one token. -/
theorem tokens_plain {t : List Char} (hne : t ≠ []) (ht : ∀ c ∈ t, plainChar c = true) : tokens t = [t] := by
  have h := tokens_append (rest := []) hne ht nofun
  rwa [List.append_nil] at h

theorem stripComment_of_not_mem {line : List Char} (h : ';' ∉ line) : stripComment line = line := by
  rw [stripComment, List.takeWhile_eq_self_iff]
  intro c hc
  exact bne_iff_ne.2 fun heq => h (heq ▸ hc)

theorem semicolon_not_mem_of_plain {t : List Char} (ht : ∀ c ∈ t, plainChar c = true) : ';' ∉ t := fun h =>
  absurd (ht ';' h) (by decide)

/-- A line of one plain name is that token. -/
theorem assembleLine_name {name : List Char} (hne : name ≠ []) (hname : ∀ c ∈ name, plainChar c = true) :
    assembleLine (String.ofList name) = assembleTokens [name] := by
  rw [assembleLine, String.toList_ofList, stripComment_of_not_mem (semicolon_not_mem_of_plain hname),
    tokens_plain hne hname]

/-- A line of a plain name, a space and a plain operand is those two tokens. -/
theorem assembleLine_name_operand {name arg : List Char} (hne : name ≠ []) (hname : ∀ c ∈ name, plainChar c = true)
    (hne' : arg ≠ []) (harg : ∀ c ∈ arg, plainChar c = true) :
    assembleLine (String.ofList (name ++ ' ' :: arg)) = assembleTokens [name, arg] := by
  have hcomment : ';' ∉ name ++ ' ' :: arg := by
    simp [semicolon_not_mem_of_plain hname, semicolon_not_mem_of_plain harg]
  rw [assembleLine, String.toList_ofList, stripComment_of_not_mem hcomment, tokens_append hne hname (by simp),
    tokens_separator_cons (.inl rfl), tokens_plain hne' harg]

/-! ## Hexadecimal operands -/

theorem plainChar_hexDigit {v : Nat} (hv : v < 16) : plainChar (hexDigit v) = true := by
  interval_cases v <;> decide

theorem plainChar_of_mem_hexDigits {n v : Nat} {c : Char} (hc : c ∈ hexDigits n v) : plainChar c = true := by
  induction n generalizing v with
  | zero => cases hc
  | succ n ih =>
    rw [hexDigits, List.mem_append, List.mem_singleton] at hc
    obtain hc | rfl := hc
    · exact ih hc
    · exact plainChar_hexDigit (Nat.mod_lt v (by decide))

theorem hexDigits_ne_nil {n : Nat} (hn : n ≠ 0) (v : Nat) : hexDigits n v ≠ [] := by
  obtain ⟨n, rfl⟩ := Nat.exists_eq_succ_of_ne_zero hn
  simp [hexDigits]

/-- An operand as R54 prints it. -/
def hexOperand (n v : Nat) : List Char := '0' :: 'x' :: hexDigits n v

theorem hexOperand_ne_nil (n v : Nat) : hexOperand n v ≠ [] := List.cons_ne_nil _ _

theorem plainChar_of_mem_hexOperand {n v : Nat} : ∀ c ∈ hexOperand n v, plainChar c = true := by
  rw [hexOperand, List.forall_mem_cons, List.forall_mem_cons]
  exact ⟨by decide, by decide, fun c => plainChar_of_mem_hexDigits⟩

/-- An operand is read back where its digits suffice. -/
theorem operandValue_hexOperand {n v : Nat} (hn : n ≠ 0) (hv : v < 16 ^ n) :
    operandValue (hexOperand n v) = some v := by
  have hread : hexValueFrom 0 (hexDigits n v) = some v := by
    rw [hexValueFrom_hexDigits, Nat.mul_zero, Nat.zero_add, Nat.mod_eq_of_lt hv]
  rw [hexOperand]
  cases hds : hexDigits n v with
  | nil => exact absurd hds (hexDigits_ne_nil hn v)
  | cons d ds => rw [operandValue, ← hds, hread]

/-! ## Mnemonics and source commands -/

theorem mnemonicOf_text (m : Mnemonic) : mnemonicOf m.text.toList = some m := by cases m <;> decide

theorem plainChar_of_mem_text (m : Mnemonic) : ∀ c ∈ m.text.toList, plainChar c = true :=
  List.all_eq_true.1 (by cases m <;> decide)

theorem text_ne_nil (m : Mnemonic) : m.text.toList ≠ [] := by cases m <;> decide

theorem text_ne_dot_word (m : Mnemonic) : m.text.toList ≠ ".word".toList := by cases m <;> decide

theorem assembleTokens_text (m : Mnemonic) (args : List (List Char)) :
    assembleTokens (m.text.toList :: args) = (assembleMnemonic m args).map fun i => [encode i] := by
  rw [assembleTokens, if_neg (text_ne_dot_word m), mnemonicOf_text]

theorem sourceForm (i : Instr) : Laws.SourceForm.Statement i :=
  match i with
  | .nop => Laws.SourceForm.nop
  | .crcInit => Laws.SourceForm.crcInit
  | .crcFeed d8 => Laws.SourceForm.crcFeed d8
  | .crcRd => Laws.SourceForm.crcRd
  | .crcChk d16 => Laws.SourceForm.crcChk d16
  | .lrcInit => Laws.SourceForm.lrcInit
  | .lrcFeed d8 => Laws.SourceForm.lrcFeed d8
  | .lrcRd => Laws.SourceForm.lrcRd
  | .lrcChk d8 => Laws.SourceForm.lrcChk d8
  | .statRd => Laws.SourceForm.statRd
  | .statClr d8 => Laws.SourceForm.statClr d8

theorem operandDigits_ne_zero {i : Instr} {v : Nat} (h : i.operand = some v) :
    Format.operandDigits i.mnemonic.format ≠ 0 := by
  cases i with
  | nop | crcInit | crcRd | lrcInit | lrcRd | statRd => cases h
  | crcFeed _ | crcChk _ | lrcFeed _ | lrcChk _ | statClr _ => exact Nat.succ_ne_zero _

theorem operandCount_eq_pow (f : Format) : f.operandCount = 16 ^ Format.operandDigits f := by cases f <;> rfl

/-- A printed command assembles to its own word (30_encoding.md R54). -/
theorem assembleLine_instrText (i : Instr) : assembleLine (String.ofList (instrText i)) = .ok [encode i] := by
  obtain ⟨-, hcommand⟩ := sourceForm i
  rw [instrText]
  cases hi : i.operand with
  | none =>
    rw [Instr.command, hi] at hcommand
    rw [assembleLine_name (text_ne_nil _) (plainChar_of_mem_text _), assembleTokens_text, assembleMnemonic, hcommand]
    rfl
  | some v =>
    have hv : v < 16 ^ Format.operandDigits i.mnemonic.format := by
      have := operand_lt i
      rwa [hi, operandCount_eq_pow] at this
    have hline : i.mnemonic.text.toList ++ " 0x".toList ++ hexDigits (Format.operandDigits i.mnemonic.format) v =
        i.mnemonic.text.toList ++ ' ' :: hexOperand (Format.operandDigits i.mnemonic.format) v :=
      List.append_assoc _ _ _
    rw [Instr.command, hi] at hcommand
    simp only [hline]
    rw [assembleLine_name_operand (text_ne_nil _) (plainChar_of_mem_text _) (hexOperand_ne_nil _ _)
      plainChar_of_mem_hexOperand, assembleTokens_text, assembleMnemonic,
      operandValue_hexOperand (operandDigits_ne_zero hi) hv]
    simp only [hcommand]
    rfl

/-- A word printed as `.word` assembles to itself (30_encoding.md R54). -/
theorem assembleLine_dot_word (w : Word) :
    assembleLine (String.ofList (".word 0x".toList ++ hexDigits 8 w.toNat)) = .ok [w] := by
  have hline : ".word 0x".toList ++ hexDigits 8 w.toNat = ".word".toList ++ ' ' :: hexOperand 8 w.toNat := rfl
  have hv : w.toNat < 16 ^ 8 := w.isLt
  have hname : ∀ c ∈ ".word".toList, plainChar c = true := List.all_eq_true.1 (by decide)
  rw [hline, assembleLine_name_operand (by decide) hname (hexOperand_ne_nil _ _) plainChar_of_mem_hexOperand,
    assembleTokens, if_pos rfl, assembleRaw, operandValue_hexOperand (by decide) hv]
  simp only [if_pos w.isLt, BitVec.ofNat_toNat, BitVec.setWidth_eq]
  rfl

/-- The operand of a well-formed source command, 0 where it is left out, is below its format's count. -/
theorem operand_lt_of_wellFormed {c : Command} (h : c.wellFormed = true) :
    c.operand.getD 0 < c.mnemonic.format.operandCount := by
  obtain ⟨m, o⟩ := c
  cases o with
  | none => rw [operandCount_eq_pow]; exact Nat.pow_pos (by decide)
  | some v =>
    simp only [Command.wellFormed] at h
    cases hf : m.format with
    | n => rw [hf] at h; cases h
    | b => rw [hf] at h; exact Nat.lt_succ_of_le (of_decide_eq_true h)
    | h => rw [hf] at h; exact Nat.lt_succ_of_le (of_decide_eq_true h)

end Sys2Proof.Machine
end

section
/-! The statements of 30_encoding.md about the assembler that are settled here: O58 and O59. -/

namespace Sys2Proof.Machine

/-- Settles O58: a legal word is printed as its command and an illegal one as `.word`, and both lines are read back. -/
theorem disassemblyAssemblesToTheSameWord : Obligations.DisassemblyAssemblesToTheSameWord := by
  intro w
  rw [disassemble]
  cases hw : decode w with
  | ok i => exact decode_eq_ok_iff_encode.1 hw ▸ assembleLine_instrText i
  | error e => exact assembleLine_dot_word w

/-- Settles O59: a well-formed operand fits its field, and every other command is refused. -/
theorem assemblerRefusesAndNeverTruncates : Obligations.AssemblerRefusesAndNeverTruncates := by
  refine fun c => ⟨fun h => ?kept, fun h => ?refused⟩
  case kept =>
    exact ⟨_, by rw [assembleCommand, if_pos h], mnemonic_instrOf _ _, operand_instrOf (operand_lt_of_wellFormed h)⟩
  case refused =>
    rw [assembleCommand, if_neg (by simp [h])]
    split
    · exact ⟨_, rfl⟩
    · exact ⟨_, rfl⟩

end Sys2Proof.Machine
end
